-- ==== Sys2Proof/Word.lean ====
section
/-! DEFINITION. Sys2Proof/Word.lean: the widths and the numbered names of the block
(spec/00_scope.md R4, R6, R7; spec/30_encoding.md R53, R57). -/

namespace Sys2Proof

/-- An 8-bit value: an axis register, a byte of a record, a field of an event word. -/
abbrev Byte := BitVec 8

/-- A 16-bit value: a port word, a snapshot, the `d` field of an event word. -/
abbrev Half := BitVec 16

/-- One event word (R57). -/
abbrev EventWord := BitVec 32

/-- A player index; index 0 is the document's player 1 (R6). -/
abbrev Player := Fin 2

/-- An expander chip; chip `c` serves player `c` (R6). -/
abbrev Chip := Fin 2

/-- A GPIO input line, 0 .. 28 (R53). -/
abbrev Line := Fin 29

/-- A flag number. The I2C variant has all twelve, the GPIO variant the first nine (R12). -/
abbrev Flag := Fin 12

/-- A byte index inside a record of four bytes (R45). -/
abbrev ByteIndex := Fin 4

end Sys2Proof
end

