-- ==== Sys2Proof/Config.lean ====
section
/-! DEFINITION. Sys2Proof/Config.lean: what a build of the block fixes (spec/00_scope.md R4, R5;
spec/10_state.md R28) and the free values of the model. The spec's own values of these parameters are
in Machine/Tables.lean (`Build.reference`). -/

namespace Sys2Proof

/-- The two build variants (R1, R5). -/
inductive Variant where
  | gpio
  | i2c
  deriving DecidableEq, Repr

/-- The four directions of the joystick: UP and DOWN on the Y axis, LEFT and RIGHT on the X axis (R96). -/
inductive Direction where
  | up
  | down
  | left
  | right
  deriving DecidableEq, Repr

/-- What one GPIO line is wired to: an entry of `LINE_MAP`, (player, kind, id) (R53). -/
inductive LineUse where
  /-- kind DIR -/
  | dir (p : Player) (d : Direction)
  /-- kind BTN -/
  | btn (p : Player) (k : Flag)
  /-- kind NONE: a reserved line -/
  | reserved
  deriving DecidableEq, Repr

/-- The build parameters of one instance of the block. No operation writes any of them (R28). -/
structure Build where
  /-- `VARIANT` (R5) -/
  variant : Variant
  /-- `TICK_HZ` (R5) -/
  tickHz : Nat
  /-- `DEBOUNCE_MS` (R4) -/
  debounceMs : Nat
  /-- `REPORT_MS` (R4) -/
  reportMs : Nat
  /-- `PENDING_CAP` (R5, R18); `none` is unbounded -/
  pendingCap : Option Nat
  /-- `CONFIRM_LATENCY_MAX`, in ticks (R5, R65 corner case (d)) -/
  confirmLatencyMax : Nat
  /-- `EXP_ADDR[0..1]`, two distinct 7-bit bus addresses (R5); invisible at the level of `BusRead16` -/
  expAddr : Vector (BitVec 7) 2
  /-- `LINE_MAP` (R53) -/
  lineMap : Vector LineUse 29
  /-- `true`: any bus transaction may fail, as R92 allows a model; `false`: only `busf` makes one fail. -/
  freeBus : Bool
  /-- `true`: the reader agent's general schedule, in which ticks may pass between the byte reads of one
  report; `false`: the reference schedule, all eight in the report tick (R115). -/
  tornReports : Bool
  deriving DecidableEq, Repr

/-- Free value: does the environment let the head entry, due but not yet at the end of its latency
window, be popped now (R65 corner case (d))? Applied to `State.choices`. Never consulted when
`CONFIRM_LATENCY_MAX` is 0. -/
opaque Config.confirmNow : Nat → Bool

/-- Free value: does this bus transaction fail (R92, last paragraph)? Applied to `State.choices`. Never
consulted when `freeBus` is false. -/
opaque Config.busFails : Nat → Bool

/-- Free value: does the reader agent read its next byte in this tick, rather than let the tick pass (R115,
the general schedule)? Applied to `State.choices`. Never consulted when `tornReports` is false. -/
opaque Config.readsNow : Nat → Bool

end Sys2Proof
end

