-- ==== Sys2Proof/Syntax.lean ====
section
/-! DEFINITION. Sys2Proof/Syntax.lean: the thirty operations of spec/opcode_table.json
(spec/30_encoding.md R58) as one inductive, and the small types their table rows and their refusals use. -/

namespace Sys2Proof

/-- The three values an axis register may receive: 0, 128, 255 (R4, R95). -/
inductive AxisLevel where
  /-- `AXIS_NEG` -/
  | neg
  /-- `AXIS_MID` -/
  | mid
  /-- `AXIS_POS` -/
  | pos
  deriving DecidableEq, Repr

/-- The operations, one constructor per row of the table of R58, in the table's order. -/
inductive Instr where
  /-- `ADV n`: n ticks pass (R117) -/
  | adv (n : BitVec 24)
  /-- `RESET` (R118) -/
  | reset
  /-- `PIN.L l` (R73) -/
  | pinL (l : Line)
  /-- `PIN.H l` (R74) -/
  | pinH (l : Line)
  /-- `G.FALL l` (R68) -/
  | gFall (l : Line)
  /-- `G.RISE l` (R69) -/
  | gRise (l : Line)
  /-- `G.CONF.F l` (R71) -/
  | gConfF (l : Line)
  /-- `G.CONF.R l` (R72) -/
  | gConfR (l : Line)
  /-- `TICK.G` (R65) -/
  | tickG
  /-- `PORT c, v` (R86) -/
  | port (c : Chip) (v : Half)
  /-- `IRQ c` (R84) -/
  | irq (c : Chip)
  /-- `X.IRQ c` (R83) -/
  | xIrq (c : Chip)
  /-- `X.CONF c, s` (R85) -/
  | xConf (c : Chip) (snap : Half)
  /-- `X.INIT c` (R82) -/
  | xInit (c : Chip)
  /-- `BUSF n` (R92) -/
  | busf (n : Half)
  /-- `TICK.X` (R80) -/
  | tickX
  /-- `SETAX.X p, v` (R97) -/
  | setaxX (p : Player) (v : AxisLevel)
  /-- `SETAX.Y p, v` (R98) -/
  | setaxY (p : Player) (v : AxisLevel)
  /-- `SETBT.0 p, k` (R99) -/
  | setbt0 (p : Player) (k : Flag)
  /-- `SETBT.1 p, k` (R100) -/
  | setbt1 (p : Player) (k : Flag)
  /-- `MAPW p, w` (R101) -/
  | mapw (p : Player) (w : Half)
  /-- `LED.0` (R104) -/
  | led0
  /-- `LED.1` (R105) -/
  | led1
  /-- `MAPL.R l` (R103) -/
  | maplR (l : Line)
  /-- `MAPL.P l` (R102) -/
  | maplP (l : Line)
  /-- `RDB p, i` (R110) -/
  | rdb (p : Player) (i : ByteIndex)
  /-- `RDR p` (R111) -/
  | rdr (p : Player)
  /-- `RDY.0` (R112) -/
  | rdy0
  /-- `RDY.1` (R113) -/
  | rdy1
  /-- `RTICK` (R115) -/
  | rtick
  deriving DecidableEq, Repr

/-- Class S (a stimulus) or class I (performed by the block inside a tick) (R58). -/
inductive OpClass where
  | stimulus
  | internal
  deriving DecidableEq, Repr

/-- Which variant has the operation: G, X or B (both) (R58, R60). -/
inductive Backend where
  | gpioOnly
  | i2cOnly
  | both
  deriving DecidableEq, Repr

/-- How an operation's operands lie in the fields `a` and `d` of its word (R58); used by the script
reader (R63). -/
inductive Shape where
  /-- no operand -/
  | plain
  /-- one operand in `a` -/
  | inA
  /-- one operand in `d` -/
  | inD
  /-- two operands, the first in `a`, the second in `d` -/
  | inAD
  /-- one 24-bit operand, its high 8 bits in `a` -/
  | count
  /-- one operand in `a`, and `d` is 0xFFFF -/
  | init
  deriving DecidableEq, Repr

/-- One row of spec/opcode_table.json. -/
structure Row where
  mnemonic : String
  op : Byte
  pattern : EventWord
  mask : EventWord
  cls : OpClass
  backend : Backend
  shape : Shape
  deriving DecidableEq, Repr

/-- Where an event word comes from: a stimulus file, which may hold class S words only, or a trace, which
may hold class I words as well (R58, R63). -/
inductive Feed where
  | stimulus
  | trace
  deriving DecidableEq, Repr

/-- Why a 32-bit word is no event word, by name (R59, R61). -/
inductive BadWord where
  /-- the `op` is not in the table (R61) -/
  | reservedOp
  /-- a field shown as 0 in R58 is not 0 -/
  | nonzeroField
  /-- a line above 28 -/
  | lineRange
  /-- a chip above 1 -/
  | chipRange
  /-- a player above 1 -/
  | playerRange
  /-- a byte index above 3 -/
  | indexRange
  /-- a flag above 11, which no variant has -/
  | flagRange
  /-- an axis value outside 0, 128, 255 -/
  | axisValue
  /-- `ADV 0` -/
  | zeroTicks
  /-- `X.INIT` whose `d` is not 0xFFFF -/
  | initData
  deriving DecidableEq, Repr

end Sys2Proof
end

