-- ==== Sys2Proof/Machine/Tables.lean ====
section
/-! DEFINITION. Sys2Proof/Machine/Tables.lean: the tables and constants of the spec: the operation table
(spec/30_encoding.md R58, spec/opcode_table.json), `LINE_MAP` (R53), `WORD_MAP` (R50), flag counts and
names (spec/10_state.md R12, R14), axis constants and timing constants (spec/00_scope.md R4, R5). -/

namespace Sys2Proof

/-- `AXIS_NEG`, `AXIS_MID`, `AXIS_POS` (R4). -/
def AxisLevel.toByte : AxisLevel → Byte
  | .neg => 0
  | .mid => 128
  | .pos => 255

/-- `NFLAGS`: 9 in the GPIO variant, 12 in the I2C variant (R4, R12). -/
def Variant.nflags : Variant → Nat
  | .gpio => 9
  | .i2c => 12

/-- The flag names in order (R14). Only `a` and `start` are names of the document. -/
def Variant.flagNames : Variant → List String
  | .gpio => ["a", "b", "c", "d", "e", "f", "g", "h", "start"]
  | .i2c => ["a", "b", "c", "d", "e", "f", "g", "h", "i", "j", "k", "start"]

/-- The row of an operation in the table of R58. -/
def Instr.row : Instr → Row
  | .adv _ => ⟨"ADV", 0x00, 0x00000000, 0xFF000000, .stimulus, .both, .count⟩
  | .reset => ⟨"RESET", 0x01, 0x01000000, 0xFFFFFFFF, .stimulus, .both, .plain⟩
  | .pinL _ => ⟨"PIN.L", 0x10, 0x10000000, 0xFFE0FFFF, .stimulus, .gpioOnly, .inA⟩
  | .pinH _ => ⟨"PIN.H", 0x11, 0x11000000, 0xFFE0FFFF, .stimulus, .gpioOnly, .inA⟩
  | .gFall _ => ⟨"G.FALL", 0x12, 0x12000000, 0xFFE0FFFF, .internal, .gpioOnly, .inA⟩
  | .gRise _ => ⟨"G.RISE", 0x13, 0x13000000, 0xFFE0FFFF, .internal, .gpioOnly, .inA⟩
  | .gConfF _ => ⟨"G.CONF.F", 0x14, 0x14000000, 0xFFE0FFFF, .internal, .gpioOnly, .inA⟩
  | .gConfR _ => ⟨"G.CONF.R", 0x15, 0x15000000, 0xFFE0FFFF, .internal, .gpioOnly, .inA⟩
  | .tickG => ⟨"TICK.G", 0x16, 0x16000000, 0xFFFFFFFF, .internal, .gpioOnly, .plain⟩
  | .port _ _ => ⟨"PORT", 0x20, 0x20000000, 0xFFFE0000, .stimulus, .i2cOnly, .inAD⟩
  | .irq _ => ⟨"IRQ", 0x21, 0x21000000, 0xFFFEFFFF, .stimulus, .i2cOnly, .inA⟩
  | .xIrq _ => ⟨"X.IRQ", 0x22, 0x22000000, 0xFFFEFFFF, .internal, .i2cOnly, .inA⟩
  | .xConf _ _ => ⟨"X.CONF", 0x23, 0x23000000, 0xFFFE0000, .internal, .i2cOnly, .inAD⟩
  | .xInit _ => ⟨"X.INIT", 0x24, 0x2400FFFF, 0xFFFEFFFF, .internal, .i2cOnly, .init⟩
  | .busf _ => ⟨"BUSF", 0x25, 0x25000000, 0xFFFF0000, .stimulus, .i2cOnly, .inD⟩
  | .tickX => ⟨"TICK.X", 0x26, 0x26000000, 0xFFFFFFFF, .internal, .i2cOnly, .plain⟩
  | .setaxX _ _ => ⟨"SETAX.X", 0x30, 0x30000000, 0xFFFEFF00, .internal, .both, .inAD⟩
  | .setaxY _ _ => ⟨"SETAX.Y", 0x31, 0x31000000, 0xFFFEFF00, .internal, .both, .inAD⟩
  | .setbt0 _ _ => ⟨"SETBT.0", 0x32, 0x32000000, 0xFFFEFFF0, .internal, .both, .inAD⟩
  | .setbt1 _ _ => ⟨"SETBT.1", 0x33, 0x33000000, 0xFFFEFFF0, .internal, .both, .inAD⟩
  | .mapw _ _ => ⟨"MAPW", 0x34, 0x34000000, 0xFFFE0000, .internal, .i2cOnly, .inAD⟩
  | .led0 => ⟨"LED.0", 0x35, 0x35000000, 0xFFFFFFFF, .internal, .both, .plain⟩
  | .led1 => ⟨"LED.1", 0x36, 0x36000000, 0xFFFFFFFF, .internal, .both, .plain⟩
  | .maplR _ => ⟨"MAPL.R", 0x37, 0x37000000, 0xFFE0FFFF, .internal, .gpioOnly, .inA⟩
  | .maplP _ => ⟨"MAPL.P", 0x38, 0x38000000, 0xFFE0FFFF, .internal, .gpioOnly, .inA⟩
  | .rdb _ _ => ⟨"RDB", 0x40, 0x40000000, 0xFFFEFFFC, .stimulus, .both, .inAD⟩
  | .rdr _ => ⟨"RDR", 0x41, 0x41000000, 0xFFFEFFFF, .stimulus, .both, .inA⟩
  | .rdy0 => ⟨"RDY.0", 0x42, 0x42000000, 0xFFFFFFFF, .stimulus, .both, .plain⟩
  | .rdy1 => ⟨"RDY.1", 0x43, 0x43000000, 0xFFFFFFFF, .stimulus, .both, .plain⟩
  | .rtick => ⟨"RTICK", 0x44, 0x44000000, 0xFFFFFFFF, .internal, .both, .plain⟩

/-- The whole table of R58, row by row: each row once, taken from one operation of that row. -/
def opcodeTable : List Row :=
  [(Instr.adv 1).row, Instr.reset.row, (Instr.pinL 0).row, (Instr.pinH 0).row, (Instr.gFall 0).row,
    (Instr.gRise 0).row, (Instr.gConfF 0).row, (Instr.gConfR 0).row, Instr.tickG.row] ++
  [(Instr.port 0 0).row, (Instr.irq 0).row, (Instr.xIrq 0).row, (Instr.xConf 0 0).row,
    (Instr.xInit 0).row, (Instr.busf 0).row, Instr.tickX.row] ++
  [(Instr.setaxX 0 .neg).row, (Instr.setaxY 0 .neg).row, (Instr.setbt0 0 0).row,
    (Instr.setbt1 0 0).row, (Instr.mapw 0 0).row, Instr.led0.row, Instr.led1.row, (Instr.maplR 0).row,
    (Instr.maplP 0).row] ++
  [(Instr.rdb 0 0).row, (Instr.rdr 0).row, Instr.rdy0.row, Instr.rdy1.row, Instr.rtick.row]

/-- Position 0 .. 12 of a line inside its player's group of thirteen lines (R53): four directions, then
the flags 0 .. 8. -/
def groupUse (p : Player) (j : Fin 13) : LineUse :=
  match j with
  | 0 => .dir p .up
  | 1 => .dir p .down
  | 2 => .dir p .left
  | 3 => .dir p .right
  | ⟨k + 4, h⟩ => .btn p ⟨k, by omega⟩

/-- `LINE_MAP` by the formula of R53: `p = l div 13`, `j = l mod 13`, and lines 26 .. 28 reserved. -/
def lineUse (l : Line) : LineUse :=
  if h : l.val < 26 then
    groupUse ⟨l.val / 13, by omega⟩ ⟨l.val % 13, Nat.mod_lt _ (by decide)⟩
  else .reserved

/-- `WORD_MAP`: the control behind one bit of the inverted port word of player `p` (R50). -/
def wordUse (p : Player) (b : Fin 16) : LineUse :=
  match b with
  | 0 => .dir p .up
  | 1 => .dir p .down
  | 2 => .dir p .left
  | 3 => .dir p .right
  | ⟨k + 4, h⟩ => .btn p ⟨k, by omega⟩

/-- `DEBOUNCE_TICKS = DEBOUNCE_MS * TICK_HZ / 1000` (R5). -/
def Build.debounceTicks (b : Build) : Nat := b.debounceMs * b.tickHz / 1000

/-- `REPORT_TICKS = REPORT_MS * TICK_HZ / 1000` (R5). -/
def Build.reportTicks (b : Build) : Nat := b.reportMs * b.tickHz / 1000

/-- The values the spec takes for every parameter (R4, R5), for a build of variant `v`. -/
def Build.reference (v : Variant) : Build where
  variant := v
  tickHz := 1000000
  debounceMs := 5
  reportMs := 100
  pendingCap := none
  confirmLatencyMax := 0
  expAddr := #v[0x20, 0x21]
  lineMap := Vector.ofFn lineUse
  freeBus := false
  tornReports := false

end Sys2Proof
end

