-- ==== Sys2Proof/Machine/State.lean ====
section
/-! DEFINITION. Sys2Proof/Machine/State.lean: everything the spec gives the machine (spec/10_state.md R10 to
R29), grouped as the spec groups it: the block's own state, the environment (R26), the reader agent (R27);
beside them the build the block was made as (R28) and the model's own fields (log entries 3 to 6).
The record address space is a view of the register file and holds no state of its own (log entry 21). -/

namespace Sys2Proof.Machine

/-- An entry of `PENDG`: `{line, dir, due}` (R16). -/
structure GEntry where
  line : Line
  /-- false = FALL (0), true = RISE (1) -/
  rise : Bool
  due : Nat
  deriving DecidableEq, Repr

/-- An entry of `PENDX`: `{chip, snap, due}` (R17). -/
structure XEntry where
  chip : Chip
  /-- the first snapshot -/
  snap : Half
  due : Nat
  deriving DecidableEq, Repr

/-- The block's own state: what R29 lists. -/
structure Block where
  /-- `AX[p]` (R10) -/
  ax : Vector Byte 2
  /-- `AY[p]` (R11) -/
  ay : Vector Byte 2
  /-- `BT[p][k]`, true = pressed (R12). A GPIO build has the flags 0 .. 8 only (log entry 9). -/
  bt : Vector (Vector Bool 12) 2
  /-- `PENDG`, oldest first (R15, R16) -/
  pendg : List GEntry
  /-- `PENDX`, oldest first (R15, R17) -/
  pendx : List XEntry
  /-- `NOW` (R19) -/
  now : Nat
  /-- `ARMED` (R23) -/
  armed : Bool
  /-- `PINQ[l]`, the level of line l in the previous tick, true = high (R23) -/
  pinq : Vector Bool 29
  /-- `LED` (R20) -/
  led : Bool
  /-- `BUSERR` (R21) -/
  buserr : Bool
  /-- `OVF` (R21) -/
  ovf : Bool
  deriving DecidableEq, Repr

/-- The environment's state (R26). -/
structure Env where
  /-- `pin[l]`, true = high -/
  pin : Vector Bool 29
  /-- `port[c]` -/
  port : Vector Half 2
  /-- `xirq[c]` -/
  xirq : Vector Bool 2
  /-- `busf`, the count of coming bus transactions that fail -/
  busf : Nat
  /-- `ch_ready` -/
  chReady : Bool
  deriving DecidableEq, Repr

/-- The reader agent's state (R27). -/
structure Agent where
  /-- `OUTBUF`, bytes 0 .. 3 player 0's record, 4 .. 7 player 1's -/
  outbuf : Vector Byte 8
  /-- `TXCOUNT` -/
  txcount : Nat
  /-- MODEL: in the general schedule of R115, the record address a report in progress reads next; always
  none in the reference schedule (log entry 15) -/
  copyNext : Option (Fin 8)
  deriving DecidableEq, Repr

/-- The whole machine. -/
structure State where
  /-- the build parameters (R28), which no operation writes (log entry 1) -/
  build : Build
  block : Block
  env : Env
  agent : Agent
  /-- MODEL: the bytes the last RDB or RDR returned, in reading order (log entry 5) -/
  returned : List Byte
  /-- MODEL: how many free values have been used (log entry 6) -/
  choices : Nat
  /-- MODEL: what the waiting words are, a stimulus file or a trace (log entry 4) -/
  feed : Feed
  /-- MODEL: the event words still to run, the next one first (log entry 3) -/
  script : List EventWord
  deriving DecidableEq, Repr

/-- Faults. There are none: of the four non-normal outcomes of R120 "none stops the block", so no step
answers a fault. Safe: the type is empty. -/
inductive Fault where
  deriving DecidableEq, Repr

/-- Refusals: the outcome ILLFORMED of R120, split by what was refused (R54, R62). Each leaves the block
untouched. -/
inductive Refusal where
  /-- Raised by an arm of `exec` whose instruction has no meaning yet; no arm raises it. Safe. -/
  | notModelled (mnemonic : String)
  /-- Raised by `step`: the next word is no event word, with the reason (R59, R61). Safe. -/
  | invalidWord (w : EventWord) (why : BadWord)
  /-- Raised by `step`: the operation belongs to the other variant (R60). Safe. -/
  | wrongVariant (w : EventWord)
  /-- Raised by `step`: a flag number not below `NFLAGS` of this build (R59). Safe. -/
  | flagAboveNflags (w : EventWord)
  /-- Raised by `step`: a class I word in a stimulus file (R62). Safe. -/
  | internalWord (w : EventWord)
  /-- Raised by `step`: a build that is not well formed (R54). Safe. -/
  | illFormedBuild
  /-- Raised by RDB's read of a record address above 7 (R62), which no event word can name. Safe. -/
  | noRecordAddress (addr : Nat)
  deriving DecidableEq, Repr

/-- The block's reset state, the table of R29. -/
def Block.reset : Block where
  ax := Vector.replicate 2 128
  ay := Vector.replicate 2 128
  bt := Vector.replicate 2 (Vector.replicate 12 false)
  pendg := []
  pendx := []
  now := 0
  armed := false
  pinq := Vector.replicate 29 true
  led := false
  buserr := false
  ovf := false

/-- The environment at rest (R26), as a script finds it (R64). -/
def Env.rest : Env where
  pin := Vector.replicate 29 true
  port := Vector.replicate 2 0xFFFF
  xirq := Vector.replicate 2 false
  busf := 0
  chReady := false

/-- The reader agent's reset state (R27). -/
def Agent.reset : Agent where
  outbuf := Vector.replicate 8 0
  txcount := 0
  copyNext := none

/-- The machine right after reset (R29), the environment at rest (R64), in the reference build of the GPIO
variant (log entry 2), with no event word waiting. -/
def State.reset : State where
  build := Build.reference .gpio
  block := Block.reset
  env := Env.rest
  agent := Agent.reset
  returned := []
  choices := 0
  feed := .stimulus
  script := []

end Sys2Proof.Machine
end

