-- ==== Sys2Proof/Machine/Flags.lean ====
section
/-! DEFINITION. Sys2Proof/Machine/Flags.lean: the block's one-bit outputs: the sticky status flags `BUSERR` and
`OVF` (spec/10_state.md R21) and the indicator `LED` (R20). There are no arithmetic condition codes (R21). -/

namespace Sys2Proof.Machine

/-- `BUSERR <- 1`; only a reset clears it (R21). -/
def setBuserr (s : State) : State := { s with block := { s.block with buserr := true } }

/-- `OVF <- 1`; only a reset clears it (R21). -/
def setOvf (s : State) : State := { s with block := { s.block with ovf := true } }

/-- `LED <- v` (R20, R104, R105). -/
def setLed (v : Bool) (s : State) : State := { s with block := { s.block with led := v } }

/-- The indicator value of a confirmed expander word: on if any bit is set (R85). -/
def indicatorOf (w : Half) : Bool := w != 0

end Sys2Proof.Machine
end

