-- ==== Sys2Proof/Machine/Operands.lean ====
section
/-! DEFINITION. Sys2Proof/Machine/Operands.lean: every operand form: the fields of an inverted port word
(spec/30_encoding.md R49, R51), the axis values formed from it (spec/42_state_mapper.md R101), the use of a
GPIO line (R53), the level an edge implies (R70), and the packed forms of pending entries (R55, R56). -/

namespace Sys2Proof.Machine

/-- `w = ~r` within 16 bits; 1 = pressed (R49). -/
def invertPort (r : Half) : Half := ~~~r

/-- `up = w[0]` (R51). -/
def wordUp (w : Half) : Bool := w.getLsbD 0

/-- `down = w[1]` (R51). -/
def wordDown (w : Half) : Bool := w.getLsbD 1

/-- `left = w[2]` (R51). -/
def wordLeft (w : Half) : Bool := w.getLsbD 2

/-- `right = w[3]` (R51). -/
def wordRight (w : Half) : Bool := w.getLsbD 3

/-- `flag(k) = w[4 + k]` (R51). -/
def wordFlag (w : Half) (k : Flag) : Bool := w.getLsbD (4 + k.val)

/-- An axis value from its two direction bits: neutral, then negative, then positive, which is assigned last
and so wins (R101, R107). -/
def axisFrom (neg pos : Bool) : AxisLevel :=
  if pos then .pos else if neg then .neg else .mid

/-- The X value of an inverted word (R101). -/
def wordX (w : Half) : AxisLevel := axisFrom (wordLeft w) (wordRight w)

/-- The Y value of an inverted word (R101). -/
def wordY (w : Half) : AxisLevel := axisFrom (wordUp w) (wordDown w)

/-- `LINE_MAP[l]` of the build (R53). -/
def lineMapAt (l : Line) (s : State) : LineUse := s.build.lineMap[l]

/-- The level an edge implies: a falling edge low, a rising edge high (R70). -/
def impliedLevel (rise : Bool) : Bool := rise

/-- `pin[l]`, the level of line `l` sampled in the current tick (R9). -/
def pinLevel (l : Line) (s : State) : Bool := s.env.pin[l]

/-- `PINQ[l]` (R23). -/
def pinqLevel (l : Line) (s : State) : Bool := s.block.pinq[l]

/-- `port[c]` (R26). -/
def portWord (c : Chip) (s : State) : Half := s.env.port[c]

/-- `xirq[c]` (R26). -/
def xirqBit (c : Chip) (s : State) : Bool := s.env.xirq[c]

/-- A `PENDG` entry as one number: bits [4:0] the line, bit [5] the direction, the bits above `due`
(R55). -/
def GEntry.pack (e : GEntry) : Nat := e.due * 64 + (if e.rise then 32 else 0) + e.line.val

/-- The entry a packed number stands for; none when its line field is above 28 (R55). -/
def GEntry.unpack (x : Nat) : Option GEntry :=
  if h : x % 32 < 29 then some ⟨⟨x % 32, h⟩, x / 32 % 2 == 1, x / 64⟩ else none

/-- The 17-bit payload of a `PENDX` entry: bits [15:0] `snap`, bit [16] `chip` (R56). -/
def XEntry.payload (e : XEntry) : BitVec 17 := BitVec.ofNat 1 e.chip.val ++ e.snap

/-- The entry of a payload and the `due` that travels beside it (R56). -/
def XEntry.ofPayload (x : BitVec 17) (due : Nat) : XEntry :=
  ⟨⟨(x.extractLsb' 16 1).toNat, (x.extractLsb' 16 1).isLt⟩, x.extractLsb' 0 16, due⟩

end Sys2Proof.Machine
end

