-- ==== Sys2Proof/Machine/Ops.lean ====
section
/-! DEFINITION. Sys2Proof/Machine/Ops.lean: the named operations over the register file, the record address
space, the pending stores, the environment's inputs and the bus, and the one operation by which a
non-normal outcome is taken (spec/60_exceptions.md R120). -/

namespace Sys2Proof.Machine

/-! ### The register file (R10 to R12, R97 to R100) -/

/-- `AX[p]`. -/
def readAx (p : Player) (s : State) : Byte := s.block.ax[p]

/-- `AY[p]`. -/
def readAy (p : Player) (s : State) : Byte := s.block.ay[p]

/-- `BT[p][k]`. -/
def readBt (p : Player) (k : Flag) (s : State) : Bool := (s.block.bt[p])[k]

/-- `AX[p] <- v` (R97). -/
def writeAx (p : Player) (v : AxisLevel) (s : State) : State :=
  { s with block := { s.block with ax := s.block.ax.set p v.toByte } }

/-- `AY[p] <- v` (R98). -/
def writeAy (p : Player) (v : AxisLevel) (s : State) : State :=
  { s with block := { s.block with ay := s.block.ay.set p v.toByte } }

/-- `BT[p][k] <- v` (R99, R100): the other flags of the player keep their values. -/
def writeBt (p : Player) (k : Flag) (v : Bool) (s : State) : State :=
  { s with block := { s.block with bt := s.block.bt.set p ((s.block.bt[p]).set k v) } }

/-! ### The record address space (R30, R31, R45 to R48, R110) -/

/-- `BT[p][n]` as a bit of a record: 0 where the build has no flag `n` (R48). -/
def recordBit (p : Player) (n : Nat) (s : State) : Bool :=
  if h : n < 12 then
    if n < s.build.variant.nflags then readBt p ⟨n, h⟩ s else false
  else false

/-- Eight bits as one byte, the first the least significant: the sum of R110. -/
def packByte (b0 b1 b2 b3 b4 b5 b6 b7 : Bool) : Byte :=
  BitVec.ofNat 8 (b0.toNat + 2 * b1.toNat + 4 * b2.toNat + 8 * b3.toNat + 16 * b4.toNat +
    32 * b5.toNat + 64 * b6.toNat + 128 * b7.toNat)

/-- Eight flags from number `n` on as one byte, the first at the least significant bit (R34, R45, R110). -/
def flagByte (p : Player) (n : Nat) (s : State) : Byte :=
  packByte (recordBit p n s) (recordBit p (n + 1) s) (recordBit p (n + 2) s) (recordBit p (n + 3) s)
    (recordBit p (n + 4) s) (recordBit p (n + 5) s) (recordBit p (n + 6) s) (recordBit p (n + 7) s)

/-- `REC(p)[i]` (R45). -/
def recordByte (p : Player) (i : ByteIndex) (s : State) : Byte :=
  match i with
  | 0 => readAx p s
  | 1 => readAy p s
  | 2 => flagByte p 0 s
  | 3 => flagByte p 8 s

/-- The record address `4*p + i` (R30). -/
def recordAddr (p : Player) (i : ByteIndex) : Nat := 4 * p.val + i.val

/-- `MemRead(addr, 1)`: `p = addr[2]`, `i = addr[1:0]`; an address above 7 does not exist (R30, R31). -/
def memRead (addr : Nat) (s : State) : Option Byte :=
  if h : addr < 8 then
    some (recordByte ⟨addr / 4, by omega⟩ ⟨addr % 4, Nat.mod_lt _ (by decide)⟩ s)
  else none

/-- The eight bytes of the record address space in ascending order (R115). -/
def allRecords (s : State) : Vector Byte 8 :=
  #v[recordByte 0 0 s, recordByte 0 1 s, recordByte 0 2 s, recordByte 0 3 s,
    recordByte 1 0 s, recordByte 1 1 s, recordByte 1 2 s, recordByte 1 3 s]

/-- The bytes a read operation gives back to its reader (log entry 5). -/
def giveBack (bytes : List Byte) (s : State) : State := { s with returned := bytes }

/-! ### Non-normal outcomes (R120) -/

/-- The non-normal outcomes the block itself can have. The fourth, ILLFORMED, is refused before it reaches
the block and is a `Refusal` (R120). -/
inductive NonNormal where
  | stale
  | busfail
  | overflow
  deriving DecidableEq, Repr

/-- The code of an outcome (R120). -/
def NonNormal.code : NonNormal → Nat
  | .stale => 0
  | .busfail => 1
  | .overflow => 2

/-- The code of ILLFORMED, the outcome a `Refusal` is (R120). -/
def illformedCode : Nat := 3

/-- Taking a non-normal outcome: what it records, and nothing else (R120 to R123). Nothing is saved and
control goes nowhere (R131), so there is no return (R133). -/
def take (o : NonNormal) (s : State) : State :=
  match o with
  | .stale => s
  | .busfail => setBuserr s
  | .overflow => setOvf s

/-! ### The pending stores (R15 to R18) -/

/-- A store of `n` entries has room for one more (R18). -/
def hasRoom (n : Nat) (s : State) : Bool :=
  match s.build.pendingCap with
  | none => true
  | some c => n < c

/-- `PENDG <- q`. -/
def setPendg (q : List GEntry) (s : State) : State := { s with block := { s.block with pendg := q } }

/-- `PENDX <- q`. -/
def setPendx (q : List XEntry) (s : State) : State := { s with block := { s.block with pendx := q } }

/-- The due time of a confirmation scheduled now (R68, R83). -/
def dueTime (s : State) : Nat := s.block.now + s.build.debounceTicks

/-- `append(PENDG, {line, dir, NOW + DEBOUNCE_TICKS})`, or OVERFLOW when the store is full (R68, R69). -/
def scheduleG (l : Line) (rise : Bool) (s : State) : State :=
  if hasRoom s.block.pendg.length s then setPendg (s.block.pendg ++ [⟨l, rise, dueTime s⟩]) s
  else take .overflow s

/-- `append(PENDX, {chip, snap, NOW + DEBOUNCE_TICKS})`, or OVERFLOW when the store is full (R83). -/
def scheduleX (c : Chip) (v : Half) (s : State) : State :=
  if hasRoom s.block.pendx.length s then setPendx (s.block.pendx ++ [⟨c, v, dueTime s⟩]) s
  else take .overflow s

/-- A free value was used. -/
def useChoice (s : State) : State := { s with choices := s.choices + 1 }

/-- Is the head entry, due at `due`, popped in this tick? It must be at the end of its latency window;
inside the window the environment chooses (R65 corner case (d)). With `CONFIRM_LATENCY_MAX` = 0 this is
`due <= NOW` and uses no free value. -/
def popsNow (due : Nat) (s : State) : Bool :=
  due ≤ s.block.now && (due + s.build.confirmLatencyMax ≤ s.block.now || Config.confirmNow s.choices)

/-- The state after that question was put: a free value was used when the entry was inside its window. -/
def afterPopChoice (due : Nat) (s : State) : State :=
  if due ≤ s.block.now ∧ s.block.now < due + s.build.confirmLatencyMax then useChoice s else s

/-! ### The two logical states of a GPIO line (R66) -/

/-- Idle or Awaiting-Confirmation (R66). -/
inductive LineState where
  | idle
  | awaiting
  deriving DecidableEq, Repr

/-- Line `l` is Awaiting-Confirmation when `PENDG` holds an entry with that line, Idle otherwise (R66). -/
def lineState (l : Line) (s : State) : LineState :=
  if s.block.pendg.any (fun e => e.line == l) then .awaiting else .idle

/-! ### Time, the detector, inputs -/

/-- `NOW <- n`. -/
def setNow (n : Nat) (s : State) : State := { s with block := { s.block with now := n } }

/-- `ARMED <- 1`. -/
def arm (s : State) : State := { s with block := { s.block with armed := true } }

/-- `PINQ[l] <- v`. -/
def writePinq (l : Line) (v : Bool) (s : State) : State :=
  { s with block := { s.block with pinq := s.block.pinq.set l v } }

/-- `for l in 0 .. 28: PINQ[l] <- pin[l]` (R65). -/
def loadPinq (s : State) : State := { s with block := { s.block with pinq := s.env.pin } }

/-- `pin[l] <- v` (R73, R74). -/
def writePin (l : Line) (v : Bool) (s : State) : State :=
  { s with env := { s.env with pin := s.env.pin.set l v } }

/-- `port[c] <- v` (R86). -/
def writePort (c : Chip) (v : Half) (s : State) : State :=
  { s with env := { s.env with port := s.env.port.set c v } }

/-- `xirq[c] <- v` (R80, R84). -/
def writeXirq (c : Chip) (v : Bool) (s : State) : State :=
  { s with env := { s.env with xirq := s.env.xirq.set c v } }

/-- `busf <- n` (R92). -/
def writeBusf (n : Nat) (s : State) : State := { s with env := { s.env with busf := n } }

/-- `ch_ready <- v` (R112, R113). -/
def writeReady (v : Bool) (s : State) : State := { s with env := { s.env with chReady := v } }

/-! ### The bus (R32, R33, R44, R92) -/

/-- Does the next bus transaction fail (R92)? -/
def busFailing (s : State) : Bool :=
  0 < s.env.busf || (s.build.freeBus && Config.busFails s.choices)

/-- What a bus transaction leaves: `busf` counts down while it is above 0; a build whose bus may fail
freely uses one free value otherwise (R92). -/
def busAfter (s : State) : State :=
  if 0 < s.env.busf then writeBusf (s.env.busf - 1) s
  else if s.build.freeBus then useChoice s
  else s

/-- `BusRead16(c)`: `some v` for `ok(v)`, `none` for `fail`, and the state after it (R32, R92). -/
def busRead16 (c : Chip) (s : State) : Option Half × State :=
  (if busFailing s then none else some (portWord c s), busAfter s)

/-- `BusWrite16(c, v)`: true for `ok`, and the state after it. The write changes nothing in the block and
leaves `port[c]` to the switches (R33, R92). -/
def busWrite16 (_c : Chip) (_v : Half) (s : State) : Bool × State :=
  (!busFailing s, busAfter s)

end Sys2Proof.Machine
end

