-- ==== Sys2Proof/Machine/Mapper.lean ====
section
/-! DEFINITION. Sys2Proof/Machine/Mapper.lean: the register file's write operations, the state mapper and the
indicator (spec/42_state_mapper.md R97 to R105). -/

namespace Sys2Proof.Machine

/-- The state mapper applied to (line l, pressed = true) (R102). -/
def mapPressed (l : Line) (s : State) : State :=
  match lineMapAt l s with
  | .dir p .up => writeAy p .neg s
  | .dir p .down => writeAy p .pos s
  | .dir p .left => writeAx p .neg s
  | .dir p .right => writeAx p .pos s
  | .btn p k => writeBt p k true s
  | .reserved => s

/-- The state mapper applied to (line l, pressed = false) (R103). -/
def mapReleased (l : Line) (s : State) : State :=
  match lineMapAt l s with
  | .dir p .up => writeAy p .mid s
  | .dir p .down => writeAy p .mid s
  | .dir p .left => writeAx p .mid s
  | .dir p .right => writeAx p .mid s
  | .btn p k => writeBt p k false s
  | .reserved => s

/-- The twelve flag writes of MAPW, ascending (R101). -/
def writeWordFlags (p : Player) (w : Half) (s : State) : State :=
  (List.finRange 12).foldl (fun t k => writeBt p k (wordFlag w k) t) s

/-- The decode of an inverted word into the whole register file of player `p` (R101). -/
def mapWord (p : Player) (w : Half) (s : State) : State :=
  writeWordFlags p w (writeAy p (wordY w) (writeAx p (wordX w) s))

/-- SETAX.X p, v (R97). -/
def execSetaxX (p : Player) (v : AxisLevel) (s : State) : Host.Outcome State Fault Refusal :=
  .next (writeAx p v s)

/-- SETAX.Y p, v (R98). -/
def execSetaxY (p : Player) (v : AxisLevel) (s : State) : Host.Outcome State Fault Refusal :=
  .next (writeAy p v s)

/-- SETBT.0 p, k (R99). -/
def execSetbt0 (p : Player) (k : Flag) (s : State) : Host.Outcome State Fault Refusal :=
  .next (writeBt p k false s)

/-- SETBT.1 p, k (R100). -/
def execSetbt1 (p : Player) (k : Flag) (s : State) : Host.Outcome State Fault Refusal :=
  .next (writeBt p k true s)

/-- MAPW p, w (R101). -/
def execMapw (p : Player) (w : Half) (s : State) : Host.Outcome State Fault Refusal :=
  .next (mapWord p w s)

/-- LED.0 (R104). -/
def execLed0 (s : State) : Host.Outcome State Fault Refusal :=
  .next (setLed false s)

/-- LED.1 (R105). -/
def execLed1 (s : State) : Host.Outcome State Fault Refusal :=
  .next (setLed true s)

/-- MAPL.R l (R103). -/
def execMaplR (l : Line) (s : State) : Host.Outcome State Fault Refusal :=
  .next (mapReleased l s)

/-- MAPL.P l (R102). -/
def execMaplP (l : Line) (s : State) : Host.Outcome State Fault Refusal :=
  .next (mapPressed l s)

end Sys2Proof.Machine
end

