-- ==== Sys2Proof/Machine/Reader.lean ====
section
/-! DEFINITION. Sys2Proof/Machine/Reader.lean: the read port and the reader agent (spec/43_read_port.md R110 to
R116). -/

namespace Sys2Proof.Machine

/-- The whole report at once: `OUTBUF[a] <- MemRead(a, 1)` for a in 0 .. 7, then `TXCOUNT <- TXCOUNT + 1`
(R115, the reference schedule). -/
def sendAll (s : State) : State :=
  { s with agent := { s.agent with outbuf := allRecords s, txcount := s.agent.txcount + 1 } }

/-- One byte read of a report in progress: `OUTBUF[a] <- MemRead(a, 1)`; after address 7 the buffer is handed
to the channel and counted (R115). DESIGN CHOICE (log entry 15): a send is counted in the tick of its hand-over,
however late that is, so in the general schedule two sends can fall less than `REPORT_TICKS` apart; the model reads
"at most 1 per 100 000 ticks" of R116 as one report begun per report tick. -/
def copyByte (a : Fin 8) (s : State) : State :=
  if h : a.val + 1 < 8 then
    { s with agent := { s.agent with
        outbuf := s.agent.outbuf.set a (allRecords s)[a]
        copyNext := some ⟨a.val + 1, h⟩ } }
  else
    { s with agent := {
        outbuf := s.agent.outbuf.set a (allRecords s)[a]
        txcount := s.agent.txcount + 1
        copyNext := none } }

/-- The byte reads of a report in progress that fall in this tick, at most `fuel` of them: the environment
says before each whether the tick passes first. R115 lets ticks pass between consecutive byte reads of the general
schedule. DESIGN CHOICE (log entry 15): ticks may pass before the first byte read too, and the channel's readiness
is not asked again. -/
def copySome : Nat → State → State
  | 0, s => s
  | fuel + 1, s =>
    match s.agent.copyNext with
    | none => s
    | some a =>
      if Config.readsNow s.choices then copySome fuel (copyByte a (useChoice s)) else useChoice s

/-- A report begins, unless one is still in progress, whose byte reads then go on (log entry 15). -/
def startCopy (s : State) : State :=
  match s.agent.copyNext with
  | none => { s with agent := { s.agent with copyNext := some 0 } }
  | some _ => s

/-- One report tick. With the channel not ready, this tick's snapshot is dropped (R115). DESIGN CHOICE (log entry
15): in the general schedule readiness is asked once, when a report begins, so a report already in progress goes on
here and is handed over even when the channel is not ready by then; the model reads R116, by which nothing is sent
in a report tick with the channel not ready, as speaking of the report that would begin in that tick. -/
def report (s : State) : State :=
  if s.build.tornReports then copySome 8 (if s.env.chReady then startCopy s else s)
  else if s.env.chReady then sendAll s
  else s

/-- The reader agent in a tick that is no report tick: a report in progress goes on, ready channel or not (R115, the
general schedule; log entry 15). -/
def reportGoesOn (s : State) : State :=
  if s.build.tornReports then copySome 8 s else s

/-- Is the current tick a report tick: a positive multiple of `REPORT_TICKS` (R115, R128)? -/
def isReportTick (s : State) : Bool :=
  0 < s.block.now && s.block.now % s.build.reportTicks == 0

/-- The end of every tick: the report phase, then `NOW <- NOW + 1` (R65, R80). -/
def endTick (s : State) : State :=
  setNow (s.block.now + 1) (if isReportTick s then report s else reportGoesOn s)

/-- RDB p, i (R110). -/
def execRdb (p : Player) (i : ByteIndex) (s : State) : Host.Outcome State Fault Refusal :=
  match memRead (recordAddr p i) s with
  | some b => .next (giveBack [b] s)
  | none => .refused (.noRecordAddress (recordAddr p i))

/-- RDR p: the four byte reads in ascending order, between the same two ticks (R111). -/
def execRdr (p : Player) (s : State) : Host.Outcome State Fault Refusal :=
  .next (giveBack [recordByte p 0 s, recordByte p 1 s, recordByte p 2 s, recordByte p 3 s] s)

/-- RDY.0 (R112). -/
def execRdy0 (s : State) : Host.Outcome State Fault Refusal :=
  .next (writeReady false s)

/-- RDY.1 (R113). -/
def execRdy1 (s : State) : Host.Outcome State Fault Refusal :=
  .next (writeReady true s)

/-- RTICK (R115). -/
def execRtick (s : State) : Host.Outcome State Fault Refusal :=
  .next (report s)

end Sys2Proof.Machine
end

