-- ==== Sys2Proof/Machine/Expander.lean ====
section
/-! DEFINITION. Sys2Proof/Machine/Expander.lean: the I2C variant: boot, interrupt handler, delayed read
comparator and tick (spec/41_expander_debounce.md R80 to R86, R92). -/

namespace Sys2Proof.Machine

/-- X.INIT c: the all-ones command; a failed write sets `BUSERR` and the block goes on (R82). -/
def xInitialise (c : Chip) (s : State) : State :=
  match busWrite16 c 0xFFFF s with
  | (true, t) => t
  | (false, t) => take .busfail t

/-- X.IRQ c: the first snapshot; a failed read schedules nothing (R83). -/
def xInterrupt (c : Chip) (s : State) : State :=
  match busRead16 c s with
  | (some v, t) => scheduleX c v t
  | (none, t) => take .busfail t

/-- X.CONF c, s: the second snapshot against the first. A failed read is BUSFAIL, a difference is STALE, and
equal snapshots are inverted and decoded into the whole register file of player c (R85, R130). -/
def xConfirm (c : Chip) (snap : Half) (s : State) : State :=
  match busRead16 c s with
  | (none, t) => take .busfail t
  | (some v, t) =>
    if v ≠ snap then take .stale t
    else setLed (indicatorOf (invertPort v)) (mapWord c (invertPort v) t)

/-- The confirm phase, as in the GPIO variant (R80). The list is the store on entry. -/
def confirmPhaseX : List XEntry → State → State
  | [], s => s
  | e :: rest, s =>
    if popsNow e.due s then
      confirmPhaseX rest (xConfirm e.chip e.snap (setPendx rest (afterPopChoice e.due s)))
    else afterPopChoice e.due s

/-- One chip in the interrupt phase (R80). -/
def serveChip (s : State) (c : Chip) : State :=
  if xirqBit c s then xInterrupt c (writeXirq c false s) else s

/-- The interrupt phase: the chips in ascending order (R80). -/
def interruptPhase (s : State) : State := (List.finRange 2).foldl serveChip s

/-- The first tick after reset: X.INIT on both chips, earlier events dropped, `ARMED <- 1` (R80, R146). -/
def bootX (s : State) : State :=
  arm (writeXirq 1 false (writeXirq 0 false (xInitialise 1 (xInitialise 0 s))))

/-- The part of TICK.X that belongs to the block (R80). -/
def tickBodyX (s : State) : State :=
  if s.block.armed then interruptPhase (confirmPhaseX s.block.pendx s) else bootX s

/-- One tick of the I2C variant (R80). -/
def tickExpander (s : State) : State := endTick (tickBodyX s)

/-- PORT c, v: a change raises one interrupt event (R86). -/
def execPort (c : Chip) (v : Half) (s : State) : Host.Outcome State Fault Refusal :=
  .next (writePort c v (if v ≠ portWord c s then writeXirq c true s else s))

/-- IRQ c (R84). -/
def execIrq (c : Chip) (s : State) : Host.Outcome State Fault Refusal :=
  .next (writeXirq c true s)

/-- X.IRQ c (R83). -/
def execXIrq (c : Chip) (s : State) : Host.Outcome State Fault Refusal :=
  .next (xInterrupt c s)

/-- X.CONF c, s (R85). -/
def execXConf (c : Chip) (snap : Half) (s : State) : Host.Outcome State Fault Refusal :=
  .next (xConfirm c snap s)

/-- X.INIT c (R82). -/
def execXInit (c : Chip) (s : State) : Host.Outcome State Fault Refusal :=
  .next (xInitialise c s)

/-- BUSF n (R92). -/
def execBusf (n : Half) (s : State) : Host.Outcome State Fault Refusal :=
  .next (writeBusf n.toNat s)

/-- TICK.X (R80). -/
def execTickX (s : State) : Host.Outcome State Fault Refusal :=
  .next (tickExpander s)

end Sys2Proof.Machine
end

