-- ==== Sys2Proof/Machine/Gpio.lean ====
section
/-! DEFINITION. Sys2Proof/Machine/Gpio.lean: the GPIO variant: edge detector, confirm timer and tick
(spec/40_gpio_debounce.md R65 to R74). -/

namespace Sys2Proof.Machine

/-- GCONF: the confirmation of an edge of line `l`. A level that does not match the edge is STALE;
otherwise the mapper and the indicator take the new value (R70). -/
def gConfirm (l : Line) (rise : Bool) (s : State) : State :=
  if pinLevel l s ≠ impliedLevel rise then take .stale s
  else if rise then setLed false (mapReleased l s)
  else setLed true (mapPressed l s)

/-- The confirm phase: entries are popped from the head while the head is popped now, and confirmed
(R65). The list is the store on entry. -/
def confirmPhaseG : List GEntry → State → State
  | [], s => s
  | e :: rest, s =>
    if popsNow e.due s then
      confirmPhaseG rest (gConfirm e.line e.rise (setPendg rest (afterPopChoice e.due s)))
    else afterPopChoice e.due s

/-- One line in the detect phase: a level that differs from the previous tick's is an edge (R65, R67). -/
def detectLine (s : State) (l : Line) : State :=
  if pinLevel l s = pinqLevel l s then s
  else writePinq l (pinLevel l s) (scheduleG l (pinLevel l s) s)

/-- The detect phase: the lines in ascending order (R65, R79). -/
def detectPhase (s : State) : State := (List.finRange 29).foldl detectLine s

/-- The part of TICK.G that belongs to the block: arming in the first tick, the confirm phase and the
detect phase in every later one (R65). -/
def tickBodyG (s : State) : State :=
  if s.block.armed then detectPhase (confirmPhaseG s.block.pendg s)
  else arm (loadPinq s)

/-- One tick of the GPIO variant (R65). -/
def tickGpio (s : State) : State := endTick (tickBodyG s)

/-- PIN.L l (R73). -/
def execPinL (l : Line) (s : State) : Host.Outcome State Fault Refusal :=
  .next (writePin l false s)

/-- PIN.H l (R74). -/
def execPinH (l : Line) (s : State) : Host.Outcome State Fault Refusal :=
  .next (writePin l true s)

/-- G.FALL l (R68). -/
def execGFall (l : Line) (s : State) : Host.Outcome State Fault Refusal :=
  .next (scheduleG l false s)

/-- G.RISE l (R69). -/
def execGRise (l : Line) (s : State) : Host.Outcome State Fault Refusal :=
  .next (scheduleG l true s)

/-- G.CONF.F l (R71). -/
def execGConfF (l : Line) (s : State) : Host.Outcome State Fault Refusal :=
  .next (gConfirm l false s)

/-- G.CONF.R l (R72). -/
def execGConfR (l : Line) (s : State) : Host.Outcome State Fault Refusal :=
  .next (gConfirm l true s)

/-- TICK.G (R65). -/
def execTickG (s : State) : Host.Outcome State Fault Refusal :=
  .next (tickGpio s)

end Sys2Proof.Machine
end

