-- ==== Sys2Proof/Machine/Time.lean ====
section
/-! DEFINITION. Sys2Proof/Machine/Time.lean: time and reset (spec/43_read_port.md R117, R118). -/

namespace Sys2Proof.Machine

/-- One tick of the build's variant (R117). -/
def tick (s : State) : State :=
  match s.build.variant with
  | .gpio => tickGpio s
  | .i2c => tickExpander s

/-- `n` ticks (R117). -/
def advance : Nat → State → State
  | 0, s => s
  | n + 1, s => advance n (tick s)

/-- RESET: the block's state from R29, the reader agent's from R27; the environment is not changed (R118,
R144). -/
def resetBlock (s : State) : State := { s with block := Block.reset, agent := Agent.reset }

/-- ADV n (R117). -/
def execAdv (n : BitVec 24) (s : State) : Host.Outcome State Fault Refusal :=
  .next (advance n.toNat s)

/-- RESET (R118). -/
def execReset (s : State) : Host.Outcome State Fault Refusal :=
  .next (resetBlock s)

end Sys2Proof.Machine
end

