-- ==== Sys2Proof/Machine/Dispatch.lean ====
section
/-! DEFINITION. Sys2Proof/Machine/Dispatch.lean: one arm per operation. -/

namespace Sys2Proof.Machine

def exec (i : Instr) (s : State) : Host.Outcome State Fault Refusal :=
  match i with
  | .adv n => Sys2Proof.Machine.execAdv n s
  | .reset => Sys2Proof.Machine.execReset s
  | .pinL l => Sys2Proof.Machine.execPinL l s
  | .pinH l => Sys2Proof.Machine.execPinH l s
  | .gFall l => Sys2Proof.Machine.execGFall l s
  | .gRise l => Sys2Proof.Machine.execGRise l s
  | .gConfF l => Sys2Proof.Machine.execGConfF l s
  | .gConfR l => Sys2Proof.Machine.execGConfR l s
  | .tickG => Sys2Proof.Machine.execTickG s
  | .port c v => Sys2Proof.Machine.execPort c v s
  | .irq c => Sys2Proof.Machine.execIrq c s
  | .xIrq c => Sys2Proof.Machine.execXIrq c s
  | .xConf c snap => Sys2Proof.Machine.execXConf c snap s
  | .xInit c => Sys2Proof.Machine.execXInit c s
  | .busf n => Sys2Proof.Machine.execBusf n s
  | .tickX => Sys2Proof.Machine.execTickX s
  | .setaxX p v => Sys2Proof.Machine.execSetaxX p v s
  | .setaxY p v => Sys2Proof.Machine.execSetaxY p v s
  | .setbt0 p k => Sys2Proof.Machine.execSetbt0 p k s
  | .setbt1 p k => Sys2Proof.Machine.execSetbt1 p k s
  | .mapw p w => Sys2Proof.Machine.execMapw p w s
  | .led0 => Sys2Proof.Machine.execLed0 s
  | .led1 => Sys2Proof.Machine.execLed1 s
  | .maplR l => Sys2Proof.Machine.execMaplR l s
  | .maplP l => Sys2Proof.Machine.execMaplP l s
  | .rdb p k => Sys2Proof.Machine.execRdb p k s
  | .rdr p => Sys2Proof.Machine.execRdr p s
  | .rdy0 => Sys2Proof.Machine.execRdy0 s
  | .rdy1 => Sys2Proof.Machine.execRdy1 s
  | .rtick => Sys2Proof.Machine.execRtick s

end Sys2Proof.Machine
end

