-- ==== Sys2Proof/WellFormed.lean ====
section
/-! DEFINITION. Sys2Proof/WellFormed.lean: what makes an operation, and a build, well formed
(spec/30_encoding.md R54, R59, R60, R62). Ranges of lines, chips, players, flags (0 .. 11), byte indexes
and axis values hold by the types of Syntax.lean; Decode.lean refuses the words that would break them. -/

namespace Sys2Proof

/-- The one field range of R59 that the types of `Instr` leave open: the count of `ADV` is not 0. -/
def Instr.wf : Instr → Bool
  | .adv n => n != 0
  | _ => true

/-- Variant gating (R60): the build has the operation. -/
def Instr.variantOk (b : Build) (i : Instr) : Bool :=
  match i.row.backend with
  | .both => true
  | .gpioOnly => b.variant == .gpio
  | .i2cOnly => b.variant == .i2c

/-- Flag `k` is below `NFLAGS` of the build (R59). -/
def Instr.flagOk (b : Build) : Instr → Bool
  | .setbt0 _ k => k.val < b.variant.nflags
  | .setbt1 _ k => k.val < b.variant.nflags
  | _ => true

/-- A class I operation is refused in a stimulus file and may stand in a trace (R58, R62). -/
def Instr.feedOk (f : Feed) (i : Instr) : Bool :=
  f == .trace || i.row.cls == .stimulus

/-- Every (player, DIR, id) and every (player, BTN, k < n), each once (R54). -/
def controls (n : Nat) : List LineUse :=
  [0, 1].flatMap fun p =>
    [.dir p .up, .dir p .down, .dir p .left, .dir p .right] ++
      ((List.finRange 12).filter (fun k => k.val < n)).map (LineUse.btn p)

/-- A line map is well formed when every control appears on exactly one line and every other line is
reserved (R54). -/
def lineMapWf (m : Vector LineUse 29) (n : Nat) : Bool :=
  (controls n).all (fun u => m.toList.count u == 1) &&
    m.toList.all (fun u => u == .reserved || (controls n).contains u)

/-- A build the model accepts: its bus addresses are distinct (R5) and, in the GPIO variant, its line map
is well formed (R54). -/
def Build.wf (b : Build) : Bool :=
  (b.expAddr[0] != b.expAddr[1]) &&
    (match b.variant with
      | .gpio => lineMapWf b.lineMap b.variant.nflags
      | .i2c => true)

end Sys2Proof
end

