-- ==== Sys2Proof/Decode.lean ====
section
/-! DEFINITION. Sys2Proof/Decode.lean: the decoder of event words, total on every 32-bit word and rejecting
by name (spec/30_encoding.md R57 to R62), and after it the encoder, from the same table (R58). -/

namespace Sys2Proof

/-- Bits [31:24], `op` (R57). -/
def fieldOp (w : EventWord) : Byte := w.extractLsb' 24 8

/-- Bits [23:16], `a` (R57). -/
def fieldA (w : EventWord) : Byte := w.extractLsb' 16 8

/-- Bits [15:0], `d` (R57). -/
def fieldD (w : EventWord) : Half := w.extractLsb' 0 16

/-- The word `{op, a, d}` (R58). -/
def assemble (op a : Byte) (d : Half) : EventWord := op ++ a ++ d

/-- A line operand in `a`, at most 28 (R59). -/
def decLine (a : Byte) : Except BadWord Line :=
  if h : a.toNat < 29 then .ok ⟨a.toNat, h⟩ else .error .lineRange

/-- A chip operand in `a` (R59). -/
def decChip (a : Byte) : Except BadWord Chip :=
  if h : a.toNat < 2 then .ok ⟨a.toNat, h⟩ else .error .chipRange

/-- A player operand in `a` (R59). -/
def decPlayer (a : Byte) : Except BadWord Player :=
  if h : a.toNat < 2 then .ok ⟨a.toNat, h⟩ else .error .playerRange

/-- A flag operand in `d`: below 12 here; the bound `NFLAGS` of a GPIO build is `Instr.flagOk` (R59). -/
def decFlag (d : Half) : Except BadWord Flag :=
  if h : d.toNat < 12 then .ok ⟨d.toNat, h⟩ else .error .flagRange

/-- A byte index in `d` (R59). -/
def decIndex (d : Half) : Except BadWord ByteIndex :=
  if h : d.toNat < 4 then .ok ⟨d.toNat, h⟩ else .error .indexRange

/-- An axis value in `d`: 0, 128 or 255 (R59). -/
def decAxis (d : Half) : Except BadWord AxisLevel :=
  if d = 0 then .ok .neg
  else if d = 128 then .ok .mid
  else if d = 255 then .ok .pos
  else .error .axisValue

/-- A field shown as 0 in the table of R58 holds 0. -/
def zeroField {n : Nat} (x : BitVec n) (i : Instr) : Except BadWord Instr :=
  if x = 0 then .ok i else .error .nonzeroField

/-- An operation with a line in `a` and `d` = 0. -/
def decOnLine (f : Line → Instr) (a : Byte) (d : Half) : Except BadWord Instr :=
  match decLine a with
  | .ok l => zeroField d (f l)
  | .error e => .error e

/-- An operation with a chip in `a` and `d` = 0. -/
def decOnChip (f : Chip → Instr) (a : Byte) (d : Half) : Except BadWord Instr :=
  match decChip a with
  | .ok c => zeroField d (f c)
  | .error e => .error e

/-- An operation with a chip in `a` and any 16-bit value in `d`. -/
def decChipData (f : Chip → Half → Instr) (a : Byte) (d : Half) : Except BadWord Instr :=
  match decChip a with
  | .ok c => .ok (f c d)
  | .error e => .error e

/-- An operation with a player in `a` and an operand read from `d` by `g`. -/
def decPlayerWith {α : Type} (g : Half → Except BadWord α) (f : Player → α → Instr) (a : Byte)
    (d : Half) : Except BadWord Instr :=
  match decPlayer a with
  | .ok p =>
    match g d with
    | .ok x => .ok (f p x)
    | .error e => .error e
  | .error e => .error e

/-- An operation without operands: both fields 0. -/
def decPlain (i : Instr) (a : Byte) (d : Half) : Except BadWord Instr :=
  if a = 0 then zeroField d i else .error .nonzeroField

/-- The table of R58, read by the three fields of a word; every other `op` is reserved (R61). -/
def decodeFields (op a : Byte) (d : Half) : Except BadWord Instr :=
  match op.toNat with
  | 0x00 => if a ++ d = 0 then .error .zeroTicks else .ok (.adv (a ++ d))
  | 0x01 => decPlain .reset a d
  | 0x10 => decOnLine .pinL a d
  | 0x11 => decOnLine .pinH a d
  | 0x12 => decOnLine .gFall a d
  | 0x13 => decOnLine .gRise a d
  | 0x14 => decOnLine .gConfF a d
  | 0x15 => decOnLine .gConfR a d
  | 0x16 => decPlain .tickG a d
  | 0x20 => decChipData .port a d
  | 0x21 => decOnChip .irq a d
  | 0x22 => decOnChip .xIrq a d
  | 0x23 => decChipData .xConf a d
  | 0x24 =>
    match decChip a with
    | .ok c => if d = 0xFFFF then .ok (.xInit c) else .error .initData
    | .error e => .error e
  | 0x25 => zeroField a (.busf d)
  | 0x26 => decPlain .tickX a d
  | 0x30 => decPlayerWith decAxis .setaxX a d
  | 0x31 => decPlayerWith decAxis .setaxY a d
  | 0x32 => decPlayerWith decFlag .setbt0 a d
  | 0x33 => decPlayerWith decFlag .setbt1 a d
  | 0x34 => decPlayerWith .ok .mapw a d
  | 0x35 => decPlain .led0 a d
  | 0x36 => decPlain .led1 a d
  | 0x37 => decOnLine .maplR a d
  | 0x38 => decOnLine .maplP a d
  | 0x40 => decPlayerWith decIndex .rdb a d
  | 0x41 =>
    match decPlayer a with
    | .ok p => zeroField d (.rdr p)
    | .error e => .error e
  | 0x42 => decPlain .rdy0 a d
  | 0x43 => decPlain .rdy1 a d
  | 0x44 => decPlain .rtick a d
  | _ => .error .reservedOp

/-- The decoder (R61): for any 32-bit word one operation with its operands, or why there is none. -/
def decode (w : EventWord) : Except BadWord Instr :=
  decodeFields (fieldOp w) (fieldA w) (fieldD w)

/-- The `a` field of an operation's word (R58). -/
def Instr.fieldA : Instr → Byte
  | .adv n => n.extractLsb' 16 8
  | .pinL l | .pinH l | .gFall l | .gRise l | .gConfF l | .gConfR l | .maplR l | .maplP l =>
    BitVec.ofNat 8 l.val
  | .port c _ | .irq c | .xIrq c | .xConf c _ | .xInit c => BitVec.ofNat 8 c.val
  | .setaxX p _ | .setaxY p _ | .setbt0 p _ | .setbt1 p _ | .mapw p _ | .rdb p _ | .rdr p =>
    BitVec.ofNat 8 p.val
  | .reset | .tickG | .busf _ | .tickX | .led0 | .led1 | .rdy0 | .rdy1 | .rtick => 0

/-- The `d` field of an operation's word (R58). -/
def Instr.fieldD : Instr → Half
  | .adv n => n.extractLsb' 0 16
  | .port _ v => v
  | .xConf _ s => s
  | .xInit _ => 0xFFFF
  | .busf n => n
  | .setaxX _ v | .setaxY _ v => v.toByte.setWidth 16
  | .setbt0 _ k | .setbt1 _ k => BitVec.ofNat 16 k.val
  | .mapw _ w => w
  | .rdb _ i => BitVec.ofNat 16 i.val
  | .reset | .pinL _ | .pinH _ | .gFall _ | .gRise _ | .gConfF _ | .gConfR _ | .tickG | .irq _
  | .xIrq _ | .tickX | .led0 | .led1 | .maplR _ | .maplP _ | .rdr _ | .rdy0 | .rdy1 | .rtick => 0

/-- The encoder: the event word of an operation (R58). -/
def encode (i : Instr) : EventWord := assemble i.row.op i.fieldA i.fieldD

/-- The host's view of the decoder: an instruction of `nbits` bits `w`, bit 0 the least significant. All
event words have 32 bits (R57). -/
def decodeTableWord (nbits w : Nat) : Option Instr :=
  if w % 2 ^ nbits < 2 ^ 32 then
    match decode (BitVec.ofNat 32 (w % 2 ^ nbits)) with
    | .ok i => some i
    | .error _ => none
  else none

end Sys2Proof
end

