-- ==== Sys2Proof/Machine/Fetch.lean ====
section
/-! DEFINITION. Sys2Proof/Machine/Fetch.lean: how an event word reaches the block: taken from the front of the
script, decoded, and admitted or refused (spec/30_encoding.md R58 to R64). -/

namespace Sys2Proof.Machine

/-- The operation of a clock cycle in which no event word waits: one tick of the build's variant, since the
block "runs from reset on and never sleeps" (R139; log entry 3). -/
def freeTick (s : State) : Instr :=
  match s.build.variant with
  | .gpio => .tickG
  | .i2c => .tickX

/-- Why the stimulus reader refuses a decoded operation, if it does: the other variant (R60), a flag the
build does not have (R59), a class I word in a stimulus file (R62). -/
def objection (s : State) (w : EventWord) (i : Instr) : Option Refusal :=
  if i.variantOk s.build = false then some (.wrongVariant w)
  else if i.flagOk s.build = false then some (.flagAboveNflags w)
  else if i.feedOk s.feed = false then some (.internalWord w)
  else none

/-- Decoding and admitting one word (R62). -/
def admitWord (s : State) (w : EventWord) : Except Refusal Instr :=
  match decode w with
  | .error why => .error (.invalidWord w why)
  | .ok i =>
    match objection s w i with
    | some r => .error r
    | none => .ok i

/-- The build of the variant that has the operation; an operation of both variants leaves the build as it
is. -/
def buildFor (i : Instr) (b : Build) : Build :=
  match i.row.backend with
  | .gpioOnly => { b with variant := .gpio }
  | .i2cOnly => { b with variant := .i2c }
  | .both => b

/-- A build that has the flag the operation names: flags 9 .. 11 exist in the I2C variant only (R12). -/
def buildWithFlag (i : Instr) (b : Build) : Build :=
  if i.flagOk b then b else { b with variant := .i2c }

/-- The feed that admits the operation: a class I word stands in a trace (R58, R63). -/
def feedFor (i : Instr) (f : Feed) : Feed :=
  match i.row.cls with
  | .stimulus => f
  | .internal => .trace

/-- The word placed at the front of the script, with the build and the feed that accept it (log entries 2 to
4). A word that decodes to nothing is only placed. -/
def placeWord (w : EventWord) (s : State) : State :=
  match decode w with
  | .error _ => { s with script := w :: s.script }
  | .ok i =>
    { s with
      build := buildWithFlag i (buildFor i s.build)
      feed := feedFor i s.feed
      script := w :: s.script }

end Sys2Proof.Machine
end

