-- ==== Sys2Proof/Machine/Step.lean ====
section
/-! DEFINITION. Sys2Proof/Machine/Step.lean: one step of the machine: the next event word, or a free-running
tick when none waits (log entry 3). -/

namespace Sys2Proof.Machine

/-- One step. A build that is not well formed is refused (R54); a word that is not admitted is refused with
the block untouched (R62); an admitted word is taken from the script and performed as one atomic step
(R41). -/
def step (s : State) : Host.Outcome State Fault Refusal :=
  if s.build.wf then
    match s.script with
    | [] => exec (freeTick s) s
    | w :: rest =>
      match admitWord s w with
      | .error r => .refused r
      | .ok i => exec i { s with script := rest }
  else .refused .illFormedBuild

/-- `s` with the event word `w`, bits above `nbits` zero, as the next one to run. -/
def State.withFetchWord (s : State) (nbits w : Nat) : State :=
  placeWord (BitVec.ofNat 32 (w % 2 ^ nbits)) s

/-- A stimulus script: the block in reset, the environment at rest, the words waiting (R64). -/
def State.ofScript (v : Variant) (words : List EventWord) : State :=
  { State.reset with build := Build.reference v, script := words }

end Sys2Proof.Machine
end

