-- ==== Sys2Proof/Machine/Script.lean ====
section
/-! DEFINITION. Sys2Proof/Machine/Script.lean: the text of a stimulus script or a trace (spec/30_encoding.md R63):
one operation a line, numbers decimal or `0x` hexadecimal, `#` comments, blank lines, and the
pseudo-operations WAITMS and EXPECT. What R63 leaves open is log entry 19. -/

namespace Sys2Proof.Machine

/-- One line of a script. -/
inductive ScriptLine where
  /-- a blank line, or a line with a comment only -/
  | blank
  /-- an operation, as its event word -/
  | word (w : EventWord)
  /-- `EXPECT p, b0, b1, b2, b3`: `RDR p` and the four bytes the rules give, a check for the reader -/
  | expect (p : Player) (bytes : List Byte)
  deriving DecidableEq, Repr

/-- A character between tokens. -/
def isSpace (c : Char) : Bool := c == ' ' || c == '\t' || c == '\r'

/-- A line without its comment: what stands before the first `#`. -/
def uncomment (cs : List Char) : List Char := cs.takeWhile (fun c => c != '#')

/-- Without the spaces at both ends. -/
def trim (cs : List Char) : List Char :=
  ((cs.dropWhile isSpace).reverse.dropWhile isSpace).reverse

/-- The value of a digit, decimal or hexadecimal. -/
def digitValue (c : Char) : Option Nat :=
  if '0' ≤ c ∧ c ≤ '9' then some (c.toNat - '0'.toNat)
  else if 'a' ≤ c ∧ c ≤ 'f' then some (c.toNat - 'a'.toNat + 10)
  else if 'A' ≤ c ∧ c ≤ 'F' then some (c.toNat - 'A'.toNat + 10)
  else none

/-- The digits `cs` in base `base`, after the value `acc`. -/
def digits (base : Nat) : List Char → Nat → Option Nat
  | [], acc => some acc
  | c :: cs, acc =>
    match digitValue c with
    | some v => if v < base then digits base cs (acc * base + v) else none
    | none => none

/-- A number, decimal or `0x` hexadecimal, with at least one digit. -/
def number : List Char → Option Nat
  | [] => none
  | ['0', 'x'] => none
  | '0' :: 'x' :: cs => digits 16 cs 0
  | cs => digits 10 cs 0

/-- The pieces of a list between commas. -/
def splitCommas : List Char → List (List Char)
  | [] => [[]]
  | ',' :: cs => [] :: splitCommas cs
  | c :: cs =>
    match splitCommas cs with
    | [] => [[c]]
    | piece :: rest => (c :: piece) :: rest

/-- The numbers of a list of pieces, all of them or none. -/
def numbers : List (List Char) → Option (List Nat)
  | [] => some []
  | p :: ps =>
    match number (trim p), numbers ps with
    | some n, some ns => some (n :: ns)
    | _, _ => none

/-- The operands after a mnemonic, separated by commas. -/
def operands (cs : List Char) : Option (List Nat) :=
  match trim cs with
  | [] => some []
  | ds => numbers (splitCommas ds)

/-- The word of a row with the given operands, in the order of R58; none when their number or their size
does not fit the row's fields. -/
def wordOfRow (r : Row) (args : List Nat) : Option EventWord :=
  match r.shape, args with
  | .plain, [] => some r.pattern
  | .inA, [a] => if a < 2 ^ 8 then some (assemble r.op (BitVec.ofNat 8 a) 0) else none
  | .inD, [d] => if d < 2 ^ 16 then some (assemble r.op 0 (BitVec.ofNat 16 d)) else none
  | .inAD, [a, d] =>
    if a < 2 ^ 8 ∧ d < 2 ^ 16 then some (assemble r.op (BitVec.ofNat 8 a) (BitVec.ofNat 16 d)) else none
  | .count, [n] => if n < 2 ^ 24 then some (r.op ++ BitVec.ofNat 24 n) else none
  | .init, [a] => if a < 2 ^ 8 then some (assemble r.op (BitVec.ofNat 8 a) 0xFFFF) else none
  | _, _ => none

/-- A word that decodes to an operation; R63 gives a text for nothing else. -/
def checked (w : Option EventWord) : Option ScriptLine :=
  match w with
  | some w =>
    match decode w with
    | .ok _ => some (.word w)
    | .error _ => none
  | none => none

/-- `WAITMS m` expands to `ADV m * 1000` with `TICK_HZ` = 1 000 000 (R63). DESIGN CHOICE (log entry 19): in a
build with another `TICK_HZ` it is the ticks of m milliseconds, rounded down to a whole number. -/
def waitTicks (b : Build) (m : Nat) : Nat := m * b.tickHz / 1000

/-- A line of a mnemonic and its operands. -/
def lineOf (b : Build) (mnemonic : List Char) (args : List Nat) : Option ScriptLine :=
  if mnemonic = "WAITMS".toList then
    match args with
    | [m] => checked (wordOfRow (Instr.adv 1).row [waitTicks b m])
    | _ => none
  else if mnemonic = "EXPECT".toList then
    match args with
    | [p, b0, b1, b2, b3] =>
      if h : p < 2 then
        if b0 < 256 ∧ b1 < 256 ∧ b2 < 256 ∧ b3 < 256 then
          some (.expect ⟨p, h⟩ ([b0, b1, b2, b3].map (BitVec.ofNat 8)))
        else none
      else none
    | _ => none
  else
    match opcodeTable.find? (fun r => r.mnemonic.toList == mnemonic) with
    | some r => checked (wordOfRow r args)
    | none => none

/-- One line of a script; none when it is no line of the syntax (R63). -/
def parseLine (b : Build) (line : List Char) : Option ScriptLine :=
  match trim (uncomment line) with
  | [] => some .blank
  | cs =>
    match operands (cs.dropWhile (fun c => !isSpace c)) with
    | some args => lineOf b (cs.takeWhile (fun c => !isSpace c)) args
    | none => none

/-- The event words of a line: EXPECT expands to RDR (R63). -/
def ScriptLine.words : ScriptLine → List EventWord
  | .blank => []
  | .word w => [w]
  | .expect p _ => [encode (.rdr p)]

/-- The event words of a script given line by line; none when a line is no line of the syntax. -/
def parseScript (b : Build) : List (List Char) → Option (List EventWord)
  | [] => some []
  | l :: ls =>
    match parseLine b l, parseScript b ls with
    | some x, some ws => some (x.words ++ ws)
    | _, _ => none

end Sys2Proof.Machine
end

