-- ==== Sys2Proof/Safety.lean ====
section
/-! DEFINITION. Sys2Proof/Safety.lean: the terms in which claims are made: what an operation leaves alone, the
invariants of the block (spec/10_state.md R13, R15, R18, R21, R23; spec/30_encoding.md R48), and what a safe
run is (spec/60_exceptions.md R120). -/

namespace Sys2Proof.Machine

/-! ### Frames -/

/-- The block's state becomes `b`; the environment and the reader agent are as before. -/
def BlockBecomes (s t : State) (b : Block) : Prop :=
  t.block = b ∧ t.env = s.env ∧ t.agent = s.agent

/-- The environment becomes `e`; the block and the reader agent are as before. -/
def EnvBecomes (s t : State) (e : Env) : Prop :=
  t.block = s.block ∧ t.env = e ∧ t.agent = s.agent

/-- Every byte of the record address space reads as before. -/
def SameRecords (s t : State) : Prop := ∀ a, memRead a t = memRead a s

/-- The register file is as before (R13). -/
def SameRegs (s t : State) : Prop :=
  t.block.ax = s.block.ax ∧ t.block.ay = s.block.ay ∧ t.block.bt = s.block.bt

/-- The registers of player `p` are as before. -/
def SamePlayer (p : Player) (s t : State) : Prop :=
  readAx p t = readAx p s ∧ readAy p t = readAy p s ∧ ∀ k, readBt p k t = readBt p k s

/-- Up and down are the directions of the Y axis (R96). -/
def vertical : Direction → Bool
  | .up | .down => true
  | .left | .right => false

/-- Two entries of a line map name one register: the same flag, or directions of the same axis (R102, R103). -/
def sharesRegister : LineUse → LineUse → Bool
  | .dir p d, .dir q e => p == q && vertical d == vertical e
  | .btn p k, .btn q j => p == q && k == j
  | _, _ => false

/-- The state an operation leaves, the state itself where it does not answer one. -/
def after (i : Instr) (s : State) : State :=
  match exec i s with
  | .next t => t
  | _ => s

/-! ### Invariants -/

/-- The domain of an axis register (R10). -/
def AxisOk (b : Byte) : Prop := b = 0 ∨ b = 128 ∨ b = 255

/-- `AX[p]` and `AY[p]` are in {0, 128, 255} (R13 (a)). -/
def AxesOk (s : State) : Prop := ∀ p, AxisOk (readAx p s) ∧ AxisOk (readAy p s)

/-- A flag the build does not have is never set (log entry 9). -/
def PaddingOk (s : State) : Prop :=
  ∀ (p : Player) (k : Flag), s.build.variant.nflags ≤ k.val → readBt p k s = false

/-- The state of the variant the build is not stays at reset: `PENDG` in the I2C variant, `PENDX` and
`BUSERR` in the GPIO variant (R16, R17, R21). -/
def OneVariant (s : State) : Prop :=
  match s.build.variant with
  | .gpio => s.block.pendx = [] ∧ s.block.buserr = false
  | .i2c => s.block.pendg = []

/-- The due times of a store: in non-decreasing order (R15), each made from a `NOW` that is past or present,
and none left behind by its latest tick (R65 corner cases (a), (d)). -/
def StoreTimely (dues : List Nat) (s : State) : Prop :=
  dues.Pairwise (· ≤ ·) ∧
    ∀ d ∈ dues, s.build.debounceTicks ≤ d ∧ d ≤ s.block.now + s.build.debounceTicks ∧
      s.block.now ≤ d + s.build.confirmLatencyMax

/-- Both stores are timely, and an unarmed block has executed no tick since reset (R15, R19, R23). -/
def Timely (s : State) : Prop :=
  OneVariant s ∧ (s.block.armed = false → s.block.now = 0) ∧
    StoreTimely (s.block.pendg.map GEntry.due) s ∧ StoreTimely (s.block.pendx.map XEntry.due) s

/-- A finite store never holds more than `PENDING_CAP` entries, and with an unbounded one `OVF` is never set
(R18, R21). -/
def CapacityOk (s : State) : Prop :=
  match s.build.pendingCap with
  | none => s.block.ovf = false
  | some c => s.block.pendg.length ≤ c ∧ s.block.pendx.length ≤ c

/-! ### Safe runs -/

/-- Every waiting event word is admitted by the stimulus reader (R62). -/
def AdmittedScript (s : State) : Prop := ∀ w ∈ s.script, ∃ i, admitWord s w = .ok i

/-- A run of `n` steps is safe when none of them is refused; no step of any run faults, `Fault` being empty
(R120: "none stops the block"). -/
def SafeRun (n : Nat) (s : State) : Prop := ∃ t, Host.Core.run ⟨State, Fault, Refusal, step, State.reset⟩ n s = .next t

end Sys2Proof.Machine
end

