-- ==== Sys2Proof/Certificates/Slice0/Obligations.lean ====
section
/-! DEFINITION. Sys2Proof/Certificates/Slice0/Obligations.lean: the statements for the provers, from the numbered
rules of spec/. In a statement about one operation the frame speaks of the block, the environment and the
reader agent; that an operation also leaves the build, the feed and the waiting words alone is
`OperationsLeaveBuildAndScript`. -/

open Sys2Proof Sys2Proof.Machine

/-! ### Reset and time -/

/-- RESET (R118, R141, R142): every piece of block state at the value of R29, the reader agent's `OUTBUF` and
`TXCOUNT` zeroed, the environment unchanged, the records `80 80 00 00`. -/
def Obligations.ResetGivesTheResetTable : Prop :=
  encode .reset = 0x01000000 ∧
  ∀ s : State, ∃ t, exec .reset s = .next t ∧
    (∀ p, readAx p t = 128 ∧ readAy p t = 128 ∧ ∀ k, readBt p k t = false) ∧
    t.block.pendg = [] ∧ t.block.pendx = [] ∧ t.block.now = 0 ∧ t.block.armed = false ∧
    (∀ l, pinqLevel l t = true) ∧ t.block.led = false ∧ t.block.buserr = false ∧ t.block.ovf = false ∧
    (∀ a : Fin 8, t.agent.outbuf[a] = 0) ∧ t.agent.txcount = 0 ∧ t.env = s.env ∧
    ∀ p, memRead (recordAddr p 0) t = some 0x80 ∧ memRead (recordAddr p 1) t = some 0x80 ∧
      memRead (recordAddr p 2) t = some 0 ∧ memRead (recordAddr p 3) t = some 0

/-- The machine right after reset is the block in the state RESET gives (R29), with the environment at rest
(R26, R64: all lines high, both ports 0xFFFF, no event, no failing transaction, the channel not ready). -/
def Obligations.ResetStateIsRestAndTable : Prop :=
  exec .reset State.reset = .next State.reset ∧
  (∀ l, pinLevel l State.reset = true) ∧ (∀ c, portWord c State.reset = 0xFFFF) ∧
  (∀ c, xirqBit c State.reset = false) ∧ State.reset.env.busf = 0 ∧
  State.reset.env.chReady = false

/-- ADV n (R117): n ticks, each by TICK.G or TICK.X as the build's variant says; `NOW` grows by n; the environment's
inputs keep their values, but for the events, which are served, and `busf`, which counts down. -/
def Obligations.AdvanceIsRepeatedTicks : Prop :=
  ∀ (n : BitVec 24) (s : State), n ≠ 0 →
    encode (.adv n) = n.setWidth 32 ∧
    (∃ u, exec (if s.build.variant = .gpio then .tickG else .tickX) s = .next u ∧
      (n = 1 → exec (.adv n) s = .next u) ∧
      (n ≠ 1 → exec (.adv n) s = exec (.adv (n - 1)) u)) ∧
    ∃ t, exec (.adv n) s = .next t ∧ t.block.now = s.block.now + n.toNat ∧
      t.env.pin = s.env.pin ∧ t.env.port = s.env.port ∧ t.env.chReady = s.env.chReady ∧
      (s.build.variant = .gpio → t.env = s.env) ∧
      (s.build.variant = .i2c → (∀ c, xirqBit c t = false) ∧ t.env.busf ≤ s.env.busf)

/-! ### The register file's write operations and the indicator -/

/-- SETAX.X and SETAX.Y (R97, R98): one axis register of one player takes the value; nothing else changes, and
writing the value already held changes nothing. A value outside {0, 128, 255} or a player above 1 has no
word. -/
def Obligations.SetAxisWritesOneRegister : Prop :=
  (∀ (p : Player) (v : AxisLevel) (s : State),
    (encode (.setaxX p v)).toNat = 0x30000000 + p.val * 0x10000 + v.toByte.toNat ∧
    ∃ t, exec (.setaxX p v) s = .next t ∧
      BlockBecomes s t { s.block with ax := t.block.ax } ∧
      readAx p t = v.toByte ∧ (∀ q, q ≠ p → readAx q t = readAx q s) ∧
      (readAx p s = v.toByte → t.block = s.block) ∧
      ∀ a, a ≠ recordAddr p 0 → memRead a t = memRead a s) ∧
  (∀ (p : Player) (v : AxisLevel) (s : State),
    (encode (.setaxY p v)).toNat = 0x31000000 + p.val * 0x10000 + v.toByte.toNat ∧
    ∃ t, exec (.setaxY p v) s = .next t ∧
      BlockBecomes s t { s.block with ay := t.block.ay } ∧
      readAy p t = v.toByte ∧ (∀ q, q ≠ p → readAy q t = readAy q s) ∧
      (readAy p s = v.toByte → t.block = s.block) ∧
      ∀ a, a ≠ recordAddr p 1 → memRead a t = memRead a s) ∧
  ∀ (op a : Byte) (d : Half), (op = 0x30 ∨ op = 0x31) →
    (2 ≤ a.toNat ∨ (d ≠ 0 ∧ d ≠ 128 ∧ d ≠ 255)) → ∃ why, decode (assemble op a d) = .error why

/-- SETBT.0 and SETBT.1 (R99, R100): one flag of one player; the other flags, in the same record byte or not,
keep their values, and so does every other byte of the record address space. -/
def Obligations.SetButtonWritesOneFlag : Prop :=
  ∀ (p : Player) (k : Flag) (s : State),
    (encode (.setbt0 p k)).toNat = 0x32000000 + p.val * 0x10000 + k.val ∧
    (encode (.setbt1 p k)).toNat = 0x33000000 + p.val * 0x10000 + k.val ∧
    ∀ v : Bool, ∃ t, exec (if v then .setbt1 p k else .setbt0 p k) s = .next t ∧
      BlockBecomes s t { s.block with bt := t.block.bt } ∧
      readBt p k t = v ∧ (∀ q j, (q, j) ≠ (p, k) → readBt q j t = readBt q j s) ∧
      ∀ a, a ≠ recordAddr p (if k.val < 8 then 2 else 3) → memRead a t = memRead a s

/-- LED.0 and LED.1 (R104, R105): the indicator register, and nothing else. -/
def Obligations.LedWritesTheIndicator : Prop :=
  encode .led0 = 0x35000000 ∧ encode .led1 = 0x36000000 ∧
  ∀ (v : Bool) (s : State), ∃ t, exec (if v then .led1 else .led0) s = .next t ∧
    BlockBecomes s t { s.block with led := v } ∧ SameRecords s t

/-- MAPW p, w (R101, R107): the whole register file of player p from the word, down over up and right over left;
the other player, and everything outside the register file, as before. -/
def Obligations.MapWordDecodesTheWholeWord : Prop :=
  ∀ (p : Player) (w : Half) (s : State),
    (encode (.mapw p w)).toNat = 0x34000000 + p.val * 0x10000 + w.toNat ∧
    ∃ t, exec (.mapw p w) s = .next t ∧
      BlockBecomes s t { s.block with ax := t.block.ax, ay := t.block.ay, bt := t.block.bt } ∧
      readAx p t = (if w.getLsbD 3 then 255 else if w.getLsbD 2 then 0 else 128) ∧
      readAy p t = (if w.getLsbD 1 then 255 else if w.getLsbD 0 then 0 else 128) ∧
      (∀ k : Flag, readBt p k t = w.getLsbD (4 + k.val)) ∧
      (∀ q, q ≠ p → SamePlayer q s t) ∧
      ∀ a, (∀ i, a ≠ recordAddr p i) → memRead a t = memRead a s

/-- MAPL.P and MAPL.R (R102, R103): each performs the one register write that `LINE_MAP[l]` names, and none for a
reserved line; a release writes 128 whatever the opposite direction holds. -/
def Obligations.MapLineWritesWhatTheLineNames : Prop :=
  ∀ (l : Line) (s : State),
    (encode (.maplP l)).toNat = 0x38000000 + l.val * 0x10000 ∧
    (encode (.maplR l)).toNat = 0x37000000 + l.val * 0x10000 ∧
    (∃ t, exec (.maplP l) s = .next t ∧
      match lineMapAt l s with
      | .dir p .up => exec (.setaxY p .neg) s = .next t
      | .dir p .down => exec (.setaxY p .pos) s = .next t
      | .dir p .left => exec (.setaxX p .neg) s = .next t
      | .dir p .right => exec (.setaxX p .pos) s = .next t
      | .btn p k => exec (.setbt1 p k) s = .next t
      | .reserved => t = s) ∧
    (∃ t, exec (.maplR l) s = .next t ∧
      match lineMapAt l s with
      | .dir p .up => exec (.setaxY p .mid) s = .next t
      | .dir p .down => exec (.setaxY p .mid) s = .next t
      | .dir p .left => exec (.setaxX p .mid) s = .next t
      | .dir p .right => exec (.setaxX p .mid) s = .next t
      | .btn p k => exec (.setbt0 p k) s = .next t
      | .reserved => t = s)

/-- Idempotence (R109): a write operation of the mapper's file performed twice in a row equals performing it
once. -/
def Obligations.WritesAreIdempotent : Prop :=
  ∀ (i : Instr) (s t : State),
    ((∃ p v, i = .setaxX p v) ∨ (∃ p v, i = .setaxY p v) ∨ (∃ p k, i = .setbt0 p k) ∨
      (∃ p k, i = .setbt1 p k) ∨ (∃ p w, i = .mapw p w) ∨ (∃ l, i = .maplP l) ∨ (∃ l, i = .maplR l) ∨
      i = .led0 ∨ i = .led1) →
    exec i s = .next t → exec i t = .next t

/-! ### Tables -/

/-- `LINE_MAP` of the reference build, by the formula of R53. -/
def Obligations.ReferenceLineMapIsTheFormula : Prop :=
  ∀ (v : Variant) (l : Line),
    (26 ≤ l.val → (Build.reference v).lineMap[l] = .reserved) ∧
    (∀ p : Player, l.val / 13 = p.val → l.val < 26 →
      (l.val % 13 = 0 → (Build.reference v).lineMap[l] = .dir p .up) ∧
      (l.val % 13 = 1 → (Build.reference v).lineMap[l] = .dir p .down) ∧
      (l.val % 13 = 2 → (Build.reference v).lineMap[l] = .dir p .left) ∧
      (l.val % 13 = 3 → (Build.reference v).lineMap[l] = .dir p .right) ∧
      ∀ k : Flag, l.val % 13 = k.val + 4 → (Build.reference v).lineMap[l] = .btn p k)

/-- A line map is accepted exactly when every direction and every flag below `NFLAGS` of each player is on exactly
one line and every other line is reserved, and the table of R53 is well formed (R54). That a GPIO build with
another map is refused at every step, under the name illFormedBuild, is the model's choice (log entry 18). -/
def Obligations.LineMapCheckIsUniqueness : Prop :=
  (∀ (m : Vector LineUse 29) (n : Nat), lineMapWf m n = true ↔
    (∀ p d, ∃! l : Line, m[l] = .dir p d) ∧
    (∀ (p : Player) (k : Flag), k.val < n → ∃! l : Line, m[l] = .btn p k) ∧
    ∀ (p : Player) (k : Flag) (l : Line), m[l] = .btn p k → k.val < n) ∧
  (∀ s : State, s.build.variant = .gpio → lineMapWf s.build.lineMap 9 = false →
    step s = .refused .illFormedBuild) ∧
  lineMapWf (Build.reference .gpio).lineMap 9 = true

/-- `WORD_MAP` (R50) and the operand assembly from the inverted word (R51) name the same bit for each control. -/
def Obligations.WordMapIsTheAssembly : Prop :=
  ∀ (p : Player) (w : Half) (b : Fin 16),
    match wordUse p b with
    | .dir q .up => q = p ∧ wordUp w = w.getLsbD b
    | .dir q .down => q = p ∧ wordDown w = w.getLsbD b
    | .dir q .left => q = p ∧ wordLeft w = w.getLsbD b
    | .dir q .right => q = p ∧ wordRight w = w.getLsbD b
    | .btn q k => q = p ∧ wordFlag w k = w.getLsbD b
    | .reserved => False

/-! ### The GPIO engine -/

/-- PIN.L and PIN.H (R73, R74): one line's level, no block state; repeating it does nothing; the block samples the
level in the next executed tick. -/
def Obligations.PinDrivesOneLine : Prop :=
  ∀ (l : Line) (s : State),
    (encode (.pinL l)).toNat = 0x10000000 + l.val * 0x10000 ∧
    (encode (.pinH l)).toNat = 0x11000000 + l.val * 0x10000 ∧
    ∀ v : Bool, ∃ t, exec (if v then .pinH l else .pinL l) s = .next t ∧
      EnvBecomes s t { s.env with pin := t.env.pin } ∧
      pinLevel l t = v ∧ (∀ m, m ≠ l → pinLevel m t = pinLevel m s) ∧
      (pinLevel l s = v → t = s) ∧ SameRecords s t ∧
      ∃ u, exec .tickG t = .next u ∧ pinqLevel l u = v

/-- G.FALL and G.RISE (R68, R69): one entry `{l, dir, NOW + DEBOUNCE_TICKS}` at the end of `PENDG`, existing entries
left in place; on a full finite store nothing is appended and `OVF` is set. -/
def Obligations.EdgeSchedulesOneConfirmation : Prop :=
  ∀ (l : Line) (s : State),
    (encode (.gFall l)).toNat = 0x12000000 + l.val * 0x10000 ∧
    (encode (.gRise l)).toNat = 0x13000000 + l.val * 0x10000 ∧
    ∀ rise : Bool, ∃ t, exec (if rise then .gRise l else .gFall l) s = .next t ∧
      SameRecords s t ∧
      ((∀ c, s.build.pendingCap = some c → s.block.pendg.length < c) →
        BlockBecomes s t { s.block with
          pendg := s.block.pendg ++ [⟨l, rise, s.block.now + s.build.debounceTicks⟩] } ∧
        lineState l t = .awaiting) ∧
      (∀ c, s.build.pendingCap = some c → c ≤ s.block.pendg.length →
        BlockBecomes s t { s.block with ovf := true })

/-- G.CONF.F and G.CONF.R (R71, R72, by the decision of R70): a level that matches the edge performs the mapper and
the indicator; one that does not changes nothing. -/
def Obligations.ConfirmationDecidesByTheLevel : Prop :=
  ∀ (l : Line) (s : State),
    (encode (.gConfF l)).toNat = 0x14000000 + l.val * 0x10000 ∧
    (encode (.gConfR l)).toNat = 0x15000000 + l.val * 0x10000 ∧
    (∃ t, exec (.gConfF l) s = .next t ∧
      (pinLevel l s = true → t = s) ∧
      (pinLevel l s = false → ∃ u, exec (.maplP l) s = .next u ∧ exec .led1 u = .next t)) ∧
    (∃ t, exec (.gConfR l) s = .next t ∧
      (pinLevel l s = false → t = s) ∧
      (pinLevel l s = true → ∃ u, exec (.maplR l) s = .next u ∧ exec .led0 u = .next t))

/-- The first tick of the GPIO variant (R65, R67 (c), R146): the detector is armed with the lines' levels, and no
edge is seen whatever they are. -/
def Obligations.FirstTickArmsTheDetector : Prop :=
  ∀ s : State, s.block.armed = false →
    ∃ t, exec .tickG s = .next t ∧
      t.block = { s.block with pinq := s.env.pin, armed := true, now := s.block.now + 1 } ∧
      t.env = s.env

/-- Every tick of the GPIO variant completes, in any build and any state (R65): it ends armed, with the levels of
this tick remembered and `NOW` one higher, and leaves the environment alone. -/
def Obligations.TickGAlwaysCompletes : Prop :=
  encode .tickG = 0x16000000 ∧
  ∀ s : State, ∃ t, exec .tickG s = .next t ∧ t.block.armed = true ∧ t.block.pinq = s.env.pin ∧
    t.block.now = s.block.now + 1 ∧ t.env = s.env ∧ t.block.pendx = s.block.pendx ∧
    t.block.buserr = s.block.buserr

/-- A later tick of the GPIO variant, for every `PENDING_CAP` and every `CONFIRM_LATENCY_MAX` (R65, R67, R79): the
first k entries are taken off the store and confirmed in order, which makes room (R65 corner case (c)). They are
due, and every leading entry at the end of its latency window is among them (R65 corner case (d)); with
`CONFIRM_LATENCY_MAX` = 0 they are the due entries at the head of the store. Then G.FALL or G.RISE is performed for
every line whose level differs from the previous tick's, in ascending line order; then, in the reference schedule,
the report phase gives what RTICK gives there, in a report tick, and nothing in any other. With an unbounded store
the whole block is written out. -/
def Obligations.TickGConfirmsThenDetects : Prop :=
  ∀ s : State, s.block.armed = true →
    ∃ t k, exec .tickG s = .next t ∧ t.env = s.env ∧
      (s.block.pendg.takeWhile (fun e => e.due + s.build.confirmLatencyMax ≤ s.block.now)).length ≤ k ∧
      k ≤ (s.block.pendg.takeWhile (fun e => e.due ≤ s.block.now)).length ∧
      let popped := s.block.pendg.take k
      let rest := s.block.pendg.drop k
      let c := popped.foldl
        (fun u e => after (if e.rise then .gConfR e.line else .gConfF e.line) u)
        { s with block := { s.block with pendg := rest } }
      let d := (List.finRange 29).foldl
        (fun u l => if pinLevel l s = pinqLevel l s then u
          else after (if pinLevel l s then .gRise l else .gFall l) u) c
      t.block = { d.block with pinq := s.env.pin, now := s.block.now + 1 } ∧
      (s.build.pendingCap = none → t.block = { s.block with
        ax := c.block.ax
        ay := c.block.ay
        bt := c.block.bt
        led := c.block.led
        pendg := rest ++ ((List.finRange 29).filter (fun l => pinLevel l s != pinqLevel l s)).map
            (fun l => ⟨l, pinLevel l s, s.block.now + s.build.debounceTicks⟩)
        pinq := s.env.pin
        now := s.block.now + 1 }) ∧
      (s.build.tornReports = false → t.agent =
        if 0 < s.block.now ∧ s.block.now % s.build.reportTicks = 0 then (after .rtick d).agent
        else s.agent)

/-- Rejection (R75, R122): a tick in which every due entry is stale changes no register and not the indicator. -/
def Obligations.StaleTickChangesNoRegister : Prop :=
  (∀ s : State, s.block.armed = true →
    (∀ e ∈ s.block.pendg, e.due ≤ s.block.now → pinLevel e.line s ≠ e.rise) →
    ∃ t, exec .tickG s = .next t ∧ SameRegs s t ∧ t.block.led = s.block.led ∧ SameRecords s t) ∧
  ∀ s : State, s.block.armed = true →
    (∀ e ∈ s.block.pendx, e.due ≤ s.block.now → portWord e.chip s ≠ e.snap) →
    ∃ t, exec .tickX s = .next t ∧ SameRegs s t ∧ t.block.led = s.block.led ∧ SameRecords s t

/-- In a quiet block, armed with nothing pending, where one line alone has changed its level and keeps it: the change
is confirmed once, `DEBOUNCE_TICKS` after its edge, and not before (R76). `LastEdgeIsConfirmedAmongOthers` is the
same among other lines and entries. -/
def Obligations.StableEdgeIsConfirmedOnTime : Prop :=
  ∀ (s : State) (l : Line),
    s.build.variant = .gpio → s.block.armed = true → s.build.confirmLatencyMax = 0 →
    0 < s.build.debounceTicks → s.build.debounceTicks + 1 < 2 ^ 24 →
    s.build.pendingCap ≠ some 0 → s.block.pendg = [] →
    pinLevel l s ≠ pinqLevel l s → (∀ m : Line, m ≠ l → pinLevel m s = pinqLevel m s) →
    (∀ k : Nat, 0 < k → k ≤ s.build.debounceTicks →
      ∃ t, exec (.adv (BitVec.ofNat 24 k)) s = .next t ∧ SameRegs s t ∧
        t.block.led = s.block.led ∧ lineState l t = .awaiting) ∧
    ∃ t u, exec (.adv (BitVec.ofNat 24 (s.build.debounceTicks + 1))) s = .next t ∧
      exec (if pinLevel l s then .maplR l else .maplP l) s = .next u ∧
      t.block = { u.block with
        led := !(pinLevel l s)
        pinq := s.env.pin
        now := s.block.now + s.build.debounceTicks + 1 } ∧
      t.env = s.env

/-- A stable change of a line is confirmed `DEBOUNCE_TICKS` after its edge whatever entries are pending and whatever
other lines change, in the edge's tick and after it (R76, R79). The edge is seen in the first tick; then any sequence
of ADV, of PIN.L and PIN.H of other lines, of reads and of readiness changes runs, up to the tick of that number (one
ADV is the special case, by `AdvanceIsRepeatedTicks`). Then the entry of the edge is among those that tick confirms,
with the level it expects, and no entry so old is left. After that tick the register the line is wired to holds the
line's value (the mapper writes it again without effect), unless a higher line of the same register had its edge in
the same tick and so wrote last. The premise on `OVF` is R123's. -/
def Obligations.LastEdgeIsConfirmedAmongOthers : Prop :=
  ∀ (s : State) (l : Line) (is : List Instr),
    s.build.variant = .gpio → s.block.armed = true → s.build.confirmLatencyMax = 0 →
    0 < s.build.debounceTicks → Timely s →
    (s.build.pendingCap = none ∨ (after .tickG s).block.ovf = false) →
    pinLevel l s ≠ pinqLevel l s →
    (∀ i ∈ is, (∃ n, i = .adv n) ∨ (∃ m, m ≠ l ∧ (i = .pinL m ∨ i = .pinH m)) ∨ (∃ p k, i = .rdb p k) ∨
      (∃ p, i = .rdr p) ∨ i = .rdy0 ∨ i = .rdy1) →
    let u := is.foldl (fun v i => after i v) (after .tickG s)
    u.block.now = s.block.now + s.build.debounceTicks →
    ∃ t, exec .tickG u = .next t ∧
      ⟨l, pinLevel l s, u.block.now⟩ ∈ u.block.pendg.takeWhile (fun e => e.due ≤ u.block.now) ∧
      pinLevel l u = pinLevel l s ∧ (∀ e ∈ t.block.pendg, u.block.now < e.due) ∧
      ((∀ m : Line, l < m → sharesRegister (lineMapAt m s) (lineMapAt l s) = true →
          pinLevel m s = pinqLevel m s) →
        exec (if pinLevel l s then .maplR l else .maplP l) t = .next t)

/-! ### The expander engine -/

/-- PORT and IRQ (R84, R86): the port word and the event bit of one chip, no block state; setting the value the port
already has raises no event, and raising an event twice is one event; the handler runs in the next executed tick of
an armed block. -/
def Obligations.PortAndIrqRaiseEvents : Prop :=
  ∀ (c : Chip) (s : State),
    (encode (.irq c)).toNat = 0x21000000 + c.val * 0x10000 ∧
    (∀ v, (encode (.port c v)).toNat = 0x20000000 + c.val * 0x10000 + v.toNat) ∧
    (∃ t, exec (.irq c) s = .next t ∧ EnvBecomes s t { s.env with xirq := t.env.xirq } ∧
      xirqBit c t = true ∧ (∀ d, d ≠ c → xirqBit d t = xirqBit d s) ∧ SameRecords s t ∧
      exec (.irq c) t = .next t ∧
      (s.block.armed = true → ∃ u, exec .tickX t = .next u ∧ xirqBit c u = false ∧
        let e : XEntry := ⟨c, portWord c s, s.block.now + s.build.debounceTicks⟩
        (e ∈ u.block.pendx ∨ u.block.buserr = true ∨ u.block.ovf = true) ∧
        (s.build.pendingCap = none → s.build.freeBus = false → s.env.busf = 0 → e ∈ u.block.pendx))) ∧
    ∀ v, ∃ t, exec (.port c v) s = .next t ∧
      EnvBecomes s t { s.env with port := t.env.port, xirq := t.env.xirq } ∧
      portWord c t = v ∧ (∀ d, d ≠ c → portWord d t = portWord d s ∧ xirqBit d t = xirqBit d s) ∧
      xirqBit c t = (xirqBit c s || v != portWord c s) ∧ SameRecords s t

/-- BUSF and the bus primitives (R92, R38): the next n transactions fail, one count each, whatever the chip; in a
build whose bus fails only by `busf` every other transaction succeeds; a transaction changes nothing in the
block. The clause on other builds is the model's free failure (log entry 6). -/
def Obligations.BusFailsWhileBusfCounts : Prop :=
  (∀ (n : Half) (s : State), (encode (.busf n)).toNat = 0x25000000 + n.toNat ∧
    ∃ t, exec (.busf n) s = .next t ∧ EnvBecomes s t { s.env with busf := n.toNat } ∧ SameRecords s t) ∧
  (∀ (c : Chip) (v : Half) (s : State), 0 < s.env.busf →
    busRead16 c s = (none, { s with env := { s.env with busf := s.env.busf - 1 } }) ∧
    busWrite16 c v s = (false, { s with env := { s.env with busf := s.env.busf - 1 } })) ∧
  (∀ (c : Chip) (v : Half) (s : State), s.env.busf = 0 → s.build.freeBus = false →
    busRead16 c s = (some (portWord c s), s) ∧ busWrite16 c v s = (true, s)) ∧
  ∀ (c : Chip) (v : Half) (s : State),
    ((busRead16 c s).1 = none ∨ (busRead16 c s).1 = some (portWord c s)) ∧
    (busRead16 c s).2.block = s.block ∧ (busWrite16 c v s).2.block = s.block ∧
    (busRead16 c s).2.env.port = s.env.port ∧ (busWrite16 c v s).2.env.port = s.env.port

/-- X.INIT (R82): the all-ones command; a failed write sets `BUSERR`; the block is otherwise unchanged. -/
def Obligations.InitWritesAllOnes : Prop :=
  ∀ (c : Chip) (s : State),
    (encode (.xInit c)).toNat = 0x2400FFFF + c.val * 0x10000 ∧
    ∃ t, exec (.xInit c) s = .next t ∧ SameRecords s t ∧
      ((busWrite16 c 0xFFFF s).1 = true → t = (busWrite16 c 0xFFFF s).2) ∧
      ((busWrite16 c 0xFFFF s).1 = false →
        BlockBecomes (busWrite16 c 0xFFFF s).2 t { s.block with buserr := true })

/-- X.IRQ (R83): the first snapshot and its entry; a failed read sets `BUSERR` and schedules nothing, even with a full
store; a full finite store sets `OVF`. -/
def Obligations.InterruptSchedulesTheSnapshot : Prop :=
  ∀ (c : Chip) (s : State),
    (encode (.xIrq c)).toNat = 0x22000000 + c.val * 0x10000 ∧
    ∃ t, exec (.xIrq c) s = .next t ∧ SameRecords s t ∧
      ((busRead16 c s).1 = none →
        BlockBecomes (busRead16 c s).2 t { s.block with buserr := true }) ∧
      ∀ v, (busRead16 c s).1 = some v →
        ((∀ n, s.build.pendingCap = some n → s.block.pendx.length < n) →
          BlockBecomes (busRead16 c s).2 t { s.block with
            pendx := s.block.pendx ++ [⟨c, v, s.block.now + s.build.debounceTicks⟩] }) ∧
        (∀ n, s.build.pendingCap = some n → n ≤ s.block.pendx.length →
          BlockBecomes (busRead16 c s).2 t { s.block with ovf := true })

/-- X.CONF (R85): BUSFAIL sets `BUSERR` and discards; a snapshot that differs in any bit is discarded; equal
snapshots are inverted and perform MAPW and the indicator. -/
def Obligations.ComparatorDecidesByTheSnapshots : Prop :=
  ∀ (c : Chip) (snap : Half) (s : State),
    (encode (.xConf c snap)).toNat = 0x23000000 + c.val * 0x10000 + snap.toNat ∧
    ∃ t, exec (.xConf c snap) s = .next t ∧
      ((busRead16 c s).1 = none →
        BlockBecomes (busRead16 c s).2 t { s.block with buserr := true }) ∧
      ∀ v, (busRead16 c s).1 = some v →
        (v ≠ snap → t = (busRead16 c s).2) ∧
        (v = snap → ∃ u, exec (.mapw c (0xFFFF - v)) (busRead16 c s).2 = .next u ∧
          exec (if 0xFFFF - v = 0 then .led0 else .led1) u = .next t)

/-- The first tick of the I2C variant (R80, R146): X.INIT 0 and then X.INIT 1 are performed, earlier events are
dropped, the block is armed. In a build whose bus fails only by `busf` what that comes to is written out: the
register file is untouched and `BUSERR` set if a write failed. -/
def Obligations.FirstTickBootsTheChips : Prop :=
  ∀ s : State, s.block.armed = false →
    ∃ t, exec .tickX s = .next t ∧
      let d := after (.xInit 1) (after (.xInit 0) s)
      t.block = { d.block with armed := true, now := s.block.now + 1 } ∧
      t.env = { d.env with xirq := t.env.xirq } ∧ (∀ c, xirqBit c t = false) ∧
      (s.build.freeBus = false →
        t.block = { s.block with
          armed := true
          now := s.block.now + 1
          buserr := s.block.buserr || 0 < s.env.busf } ∧
        t.env = { s.env with xirq := t.env.xirq, busf := s.env.busf - 2 })

/-- Every tick of the I2C variant completes, in any build and any state (R80): it ends armed, with no event waiting
and `NOW` one higher, and leaves ports, lines and readiness alone. -/
def Obligations.TickXAlwaysCompletes : Prop :=
  encode .tickX = 0x26000000 ∧
  ∀ s : State, ∃ t, exec .tickX s = .next t ∧ t.block.armed = true ∧
    t.block.now = s.block.now + 1 ∧ (∀ c, xirqBit c t = false) ∧ t.env.port = s.env.port ∧
    t.env.pin = s.env.pin ∧ t.env.chReady = s.env.chReady ∧ t.env.busf ≤ s.env.busf ∧
    t.block.pendg = s.block.pendg ∧ t.block.pinq = s.block.pinq

/-- A later tick of the I2C variant, for every `PENDING_CAP`, every `CONFIRM_LATENCY_MAX` and every bus (R80): the
first k entries are taken off the store and X.CONF is performed for them in order, which makes room; k is bounded as
in `TickGConfirmsThenDetects`. Then for each chip with an event, chip 0 first, the event is cleared and X.IRQ
performed. So a transaction that fails costs its own cycle, and `busf` counts down in that order. Then, in the
reference schedule, the report phase gives what RTICK gives there, in a report tick, and nothing in any other. With
an unbounded store and a bus that does not fail the whole block is written out. `afterPopChoice` counts the free
value that the question of an entry inside its latency window used, which is the model's own (log entry 6) and
nothing with `CONFIRM_LATENCY_MAX` = 0. -/
def Obligations.TickXConfirmsThenServes : Prop :=
  ∀ s : State, s.block.armed = true →
    ∃ t k, exec .tickX s = .next t ∧
      (s.block.pendx.takeWhile (fun e => e.due + s.build.confirmLatencyMax ≤ s.block.now)).length ≤ k ∧
      k ≤ (s.block.pendx.takeWhile (fun e => e.due ≤ s.block.now)).length ∧
      let popped := s.block.pendx.take k
      let rest := s.block.pendx.drop k
      let c := rest.head?.elim id (fun e => afterPopChoice e.due)
        (popped.foldl (fun u e => after (.xConf e.chip e.snap) (afterPopChoice e.due u))
          { s with block := { s.block with pendx := rest } })
      let d := (List.finRange 2).foldl
        (fun u b => if xirqBit b s then
            after (.xIrq b) { u with env := { u.env with xirq := u.env.xirq.set b false } }
          else u) c
      t.block = { d.block with now := s.block.now + 1 } ∧ t.env = d.env ∧
      (s.build.pendingCap = none → s.build.freeBus = false → s.env.busf = 0 →
        t.env = { s.env with xirq := t.env.xirq } ∧
        t.block = { s.block with
          ax := c.block.ax
          ay := c.block.ay
          bt := c.block.bt
          led := c.block.led
          pendx := rest ++ ((List.finRange 2).filter (fun d => xirqBit d s)).map
              (fun d => ⟨d, portWord d s, s.block.now + s.build.debounceTicks⟩)
          now := s.block.now + 1 }) ∧
      (s.build.tornReports = false → t.agent =
        if 0 < s.block.now ∧ s.block.now % s.build.reportTicks = 0 then (after .rtick d).agent
        else s.agent)

/-- Settling in a quiet block (R91): with nothing pending, after the only event of a chip whose port keeps its value, the
register file of its player is the decode of that value `DEBOUNCE_TICKS` later, and the indicator is on exactly if a
bit is set. -/
def Obligations.QuietPortIsDecodedOnTime : Prop :=
  ∀ (s : State) (c : Chip),
    s.build.variant = .i2c → s.block.armed = true → s.build.confirmLatencyMax = 0 →
    0 < s.build.debounceTicks → s.build.debounceTicks + 1 < 2 ^ 24 →
    s.build.pendingCap ≠ some 0 → s.block.pendx = [] → s.build.freeBus = false → s.env.busf = 0 →
    xirqBit c s = true → (∀ d : Chip, d ≠ c → xirqBit d s = false) →
    ∃ t u, exec (.adv (BitVec.ofNat 24 (s.build.debounceTicks + 1))) s = .next t ∧
      exec (.mapw c (0xFFFF - portWord c s)) s = .next u ∧
      t.block = { u.block with
        led := decide (0xFFFF - portWord c s ≠ 0)
        now := s.block.now + s.build.debounceTicks + 1 } ∧
      t.env.port = s.env.port ∧ ∀ d, xirqBit d t = false

/-- The two chips are independent (R94, R13 (d)): an operation of chip c leaves the other player's registers alone,
and what it does to the block does not depend on the other chip's port. -/
def Obligations.ChipsAreIndependent : Prop :=
  ∀ (c d : Chip) (i : Instr) (s : State), d ≠ c →
    (i = .xInit c ∨ i = .xIrq c ∨ (∃ snap, i = .xConf c snap) ∨ ∃ w, i = .mapw c w) →
    ∀ t, exec i s = .next t → SamePlayer d s t ∧
      ∀ (v : Half) (s' : State), exec (.port d v) s = .next s' →
        ∃ t', exec i s' = .next t' ∧ t'.block = t.block

/-! ### The read port and the reader agent -/

/-- The record address space (R30, R31): eight byte addresses, `4*p + i` byte i of player p's record; no other. -/
def Obligations.RecordAddressesAreEight : Prop :=
  (∀ (p : Player) (i : ByteIndex) (s : State), memRead (4 * p.val + i.val) s = some (recordByte p i s)) ∧
  ∀ (a : Nat) (s : State), 8 ≤ a → memRead a s = none

/-- The record, bit by bit (R45 to R48): `AX`, `AY`, flags 0 .. 7 in byte 2 and the flags from 8 on in byte 3, each at
bit `k mod 8`; the bits that hold no flag read as 0. -/
def Obligations.RecordHoldsTheRegisters : Prop :=
  ∀ (p : Player) (s : State),
    recordByte p 0 s = readAx p s ∧ recordByte p 1 s = readAy p s ∧
    (∀ (j : Nat) (h : j < 8), (recordByte p 2 s).getLsbD j = readBt p ⟨j, by omega⟩ s) ∧
    (∀ (j : Nat) (h : j < 4), j + 9 ≤ s.build.variant.nflags →
      (recordByte p 3 s).getLsbD j = readBt p ⟨8 + j, by omega⟩ s) ∧
    ∀ j : Nat, s.build.variant.nflags < j + 9 → (recordByte p 3 s).getLsbD j = false

/-- RDB and RDR (R110, R111, R38): the bytes of the record, and no side effect. That the bytes appear in the field
`returned` is the model's choice (log entry 5). -/
def Obligations.ReadsReturnTheRecord : Prop :=
  ∀ (p : Player) (s : State),
    (encode (.rdr p)).toNat = 0x41000000 + p.val * 0x10000 ∧
    (∀ i, (encode (.rdb p i)).toNat = 0x40000000 + p.val * 0x10000 + i.val) ∧
    (∀ i, ∃ t b, exec (.rdb p i) s = .next t ∧ memRead (recordAddr p i) s = some b ∧
      t.returned = [b] ∧ EnvBecomes s t s.env ∧ SameRecords s t) ∧
    ∃ t, exec (.rdr p) s = .next t ∧
      t.returned.map some = [memRead (recordAddr p 0) s, memRead (recordAddr p 1) s,
        memRead (recordAddr p 2) s, memRead (recordAddr p 3) s] ∧
      EnvBecomes s t s.env ∧ SameRecords s t

/-- RDY.0 and RDY.1 (R112, R113): the channel's readiness, no block state. -/
def Obligations.ReadyIsTheChannelsAlone : Prop :=
  encode .rdy0 = 0x42000000 ∧ encode .rdy1 = 0x43000000 ∧
  ∀ (v : Bool) (s : State), ∃ t, exec (if v then .rdy1 else .rdy0) s = .next t ∧
    EnvBecomes s t { s.env with chReady := v } ∧ SameRecords s t

/-- RTICK in the reference schedule (R115): with the channel ready all eight bytes and one more send; with the channel
not ready nothing. -/
def Obligations.ReportSendsTheRecords : Prop :=
  encode .rtick = 0x44000000 ∧
  ∀ s : State, s.build.tornReports = false →
    ∃ t, exec .rtick s = .next t ∧ t.block = s.block ∧ t.env = s.env ∧ SameRecords s t ∧
      (s.env.chReady = false → t.agent = s.agent) ∧
      (s.env.chReady = true →
        (∀ a : Fin 8, memRead a s = some t.agent.outbuf[a]) ∧
        t.agent.txcount = s.agent.txcount + 1)

/-- RTICK, and the byte reads that go on inside every tick, in either schedule (R115, R42 (a)): every byte of `OUTBUF`
is the byte that was there or the byte the record holds as the operation leaves it, and at most one send is counted;
with the channel not ready and no report in progress the agent is unchanged. RTICK changes nothing outside the agent.
The general schedule's details are the model's choice (log entry 15). -/
def Obligations.ReportReadsTrueBytes : Prop :=
  ∀ (i : Instr) (s : State), (i = .rtick ∨ i = .tickG ∨ i = .tickX) →
    ∃ t, exec i s = .next t ∧
      (i = .rtick → t.block = s.block ∧ t.env = s.env ∧ SameRecords s t) ∧
      (∀ a : Fin 8, t.agent.outbuf[a] = s.agent.outbuf[a] ∨ memRead a t = some t.agent.outbuf[a]) ∧
      s.agent.txcount ≤ t.agent.txcount ∧ t.agent.txcount ≤ s.agent.txcount + 1 ∧
      (s.env.chReady = false → s.agent.copyNext = none → t.agent = s.agent)

/-- The reader agent over time, reference schedule (R116, R128): over any sequence of operations without RESET and
without an RTICK of a trace, in which the channel's readiness may change at will, it sends at most once if no more
than `REPORT_TICKS` ticks pass. A window of exactly that many ticks in one ADV after the first tick, with the channel
ready throughout, has exactly one send, and an ADV with the channel not ready has none. -/
def Obligations.AtMostOneReportPerWindow : Prop :=
  (∀ (is : List Instr) (s : State), s.build.tornReports = false →
    (∀ i ∈ is, i ≠ .reset ∧ i ≠ .rtick) →
    let t := is.foldl (fun u i => after i u) s
    t.block.now ≤ s.block.now + s.build.reportTicks →
    s.agent.txcount ≤ t.agent.txcount ∧ t.agent.txcount ≤ s.agent.txcount + 1) ∧
  ∀ (n : BitVec 24) (s t : State), s.build.tornReports = false → exec (.adv n) s = .next t →
    (s.env.chReady = false → t.agent = s.agent) ∧
    (s.env.chReady = true → 0 < s.block.now → 0 < n.toNat → n.toNat = s.build.reportTicks →
      t.agent.txcount = s.agent.txcount + 1)

/-- The report phase of a tick, reference schedule (R65, R80, R115, R128): a tick whose number is a positive multiple
of `REPORT_TICKS` sends, with the channel ready, the eight record bytes as the tick leaves them, and counts one
send; with the channel not ready, and in every other tick, the agent is unchanged. This holds of both variants'
ticks, armed or not. -/
def Obligations.TicksReportOnReportTicks : Prop :=
  ∀ (i : Instr) (s : State), (i = .tickG ∨ i = .tickX) → s.build.tornReports = false →
    ∃ t, exec i s = .next t ∧
      (¬(0 < s.block.now ∧ s.block.now % s.build.reportTicks = 0) → t.agent = s.agent) ∧
      (s.env.chReady = false → t.agent = s.agent) ∧
      (0 < s.block.now → s.block.now % s.build.reportTicks = 0 → s.env.chReady = true →
        t.agent.txcount = s.agent.txcount + 1 ∧ ∀ a : Fin 8, memRead a t = some t.agent.outbuf[a])

/-- Nothing the reader agent holds, and not the channel's readiness, ever reaches the block (R114, R134): two states
that differ only there are taken by every operation to states that differ only there. The restriction to the
reference schedule is because the general one draws on the model's one counter of free values (log entry 6). -/
def Obligations.ReaderCannotInfluenceTheBlock : Prop :=
  ∀ (i : Instr) (s s' t : State), s.build.tornReports = false →
    s'.build = s.build → s'.block = s.block → s'.choices = s.choices →
    s'.env = { s.env with chReady := s'.env.chReady } →
    exec i s = .next t →
    ∃ t', exec i s' = .next t' ∧ t'.build = t.build ∧ t'.block = t.block ∧ t'.choices = t.choices ∧
      t'.env = { t.env with chReady := t'.env.chReady }

/-! ### Whole-machine rules -/

/-- No operation writes a build parameter (R28); nor does one touch the model's feed and waiting words, and only RDB
and RDR change `returned` (log entries 3 to 5). -/
def Obligations.OperationsLeaveBuildAndScript : Prop :=
  ∀ (i : Instr) (s t : State), exec i s = .next t →
    t.build = s.build ∧ t.feed = s.feed ∧ t.script = s.script ∧
    ((∀ p k, i ≠ .rdb p k) → (∀ p, i ≠ .rdr p) → t.returned = s.returned)

/-- The register file is written by confirmations, by the write operations they perform, by the ticks that hold them
and by RESET, and by nothing else (R13 (b)). -/
def Obligations.OnlyConfirmationsWriteTheRegisterFile : Prop :=
  ∀ (i : Instr) (s t : State),
    ((∃ l, i = .pinL l) ∨ (∃ l, i = .pinH l) ∨ (∃ l, i = .gFall l) ∨ (∃ l, i = .gRise l) ∨
      (∃ c v, i = .port c v) ∨ (∃ c, i = .irq c) ∨ (∃ c, i = .xIrq c) ∨ (∃ c, i = .xInit c) ∨
      (∃ n, i = .busf n) ∨ i = .led0 ∨ i = .led1 ∨ (∃ p k, i = .rdb p k) ∨ (∃ p, i = .rdr p) ∨
      i = .rdy0 ∨ i = .rdy1 ∨ i = .rtick) →
    exec i s = .next t → SameRegs s t ∧ SameRecords s t

/-- `BUSERR` and `OVF` are sticky: only RESET clears them (R21). -/
def Obligations.StatusFlagsAreSticky : Prop :=
  ∀ (i : Instr) (s t : State), i ≠ .reset → exec i s = .next t →
    (s.block.buserr = true → t.block.buserr = true) ∧ (s.block.ovf = true → t.block.ovf = true)

/-- No operation but RESET removes or alters an entry before its due time (R15, R127): an entry still to come after the
operation is still in its store. -/
def Obligations.NoConfirmationIsCancelled : Prop :=
  ∀ (i : Instr) (s t : State), i ≠ .reset → exec i s = .next t →
    (∀ e ∈ s.block.pendg, t.block.now ≤ e.due → e ∈ t.block.pendg) ∧
    ∀ e ∈ s.block.pendx, t.block.now ≤ e.due → e ∈ t.block.pendx

/-- One operation reports at most one outcome (R130): a failed transaction of X.IRQ or X.CONF sets `BUSERR` and leaves
`OVF`, the stores, the register file and `LED` as they were. -/
def Obligations.BusFailureIsTheOnlyOutcome : Prop :=
  ∀ (c : Chip) (i : Instr) (s : State), (i = .xIrq c ∨ ∃ snap, i = .xConf c snap) →
    (busRead16 c s).1 = none →
    ∃ t, exec i s = .next t ∧ t.block = { s.block with buserr := true }

/-! ### Invariants -/

/-- The axis registers hold only 0, 128 or 255, at every point between two steps (R13 (a), R95). -/
def Obligations.AxesStayInTheirDomain : Prop :=
  ∀ s t : State, AxesOk s → step s = .next t → AxesOk t

/-- The flags 9 to 11 of a GPIO build, which only the model stores (log entry 9: DESIGN CHOICE), stay 0: no step sets a
flag the build does not have. R48 does not rest on this: the padding bits of a record read as 0 whatever these flags
hold (`RecordHoldsTheRegisters`). That no admitted word names such a flag is R59. -/
def Obligations.PaddingStaysZero : Prop :=
  ∀ s t : State, PaddingOk s → step s = .next t → PaddingOk t

/-- Entries stay in order of due time, none is scheduled further ahead than `DEBOUNCE_TICKS`, none outlives its latest
tick, and an unarmed block has executed no tick (R15, R19, R23, R65 corner cases (a) and (d), R136). Part of the
invariant is the model's choice (log entry 11): one State serves both variants, and what the other variant alone has
(R16, R17, R21: `PENDX` and `BUSERR` in a GPIO build, `PENDG` in an I2C build) stays at its reset value. -/
def Obligations.ConfirmationsStayTimely : Prop :=
  ∀ s t : State, 0 < s.build.debounceTicks → Timely s → step s = .next t → Timely t

/-- A finite store stays within `PENDING_CAP`; with an unbounded one `OVF` is never set (R18, R21, R123). -/
def Obligations.StoresStayWithinCapacity : Prop :=
  ∀ s t : State, CapacityOk s → step s = .next t → CapacityOk t

/-- The reset state of either variant meets the four invariants above. -/
def Obligations.ResetMeetsTheInvariants : Prop :=
  ∀ v : Variant,
    let s := State.ofScript v []
    AxesOk s ∧ PaddingOk s ∧ Timely s ∧ CapacityOk s

/-- None of the block's outcomes stops it (R120): a well-formed build whose waiting words are all admitted runs any
number of steps, and goes on ticking when the words are used up. The free-running tick is the model's choice
(log entry 3). -/
def Obligations.AdmittedScriptNeverStops : Prop :=
  ∀ (n : Nat) (s : State), s.build.wf = true → AdmittedScript s → SafeRun n s

/-! ### Event words and the step -/

/-- Decoding an encoded well-formed operation gives it back, for every operand the encoding admits (R58, R59). -/
def Obligations.DecodeOfEncode : Prop :=
  ∀ i : Instr, i.wf = true → decode (encode i) = .ok i

/-- A word that decodes is the word of the operation it decodes to, which is well formed: no two words name one
operation and no bit of a word is ignored (R58, R59). -/
def Obligations.EncodeOfDecode : Prop :=
  ∀ (w : EventWord) (i : Instr), decode w = .ok i → encode i = w ∧ i.wf = true

/-- A word selects its row by `w & mask == match`, and no other row of the table (R58). -/
def Obligations.DecodedWordMatchesOneRow : Prop :=
  ∀ (w : EventWord) (i : Instr), decode w = .ok i →
    i.row ∈ opcodeTable ∧ ∀ r ∈ opcodeTable, (w &&& r.mask = r.pattern ↔ r = i.row)

/-- Reserved encodings (R61): a word whose `op` is in no row names no operation; every other word decodes to an
operation or is rejected by another name. -/
def Obligations.ReservedOpsAreRejected : Prop :=
  ∀ w : EventWord, decode w = .error .reservedOp ↔ ∀ r ∈ opcodeTable, r.op ≠ fieldOp w

/-- A step performs the operation its next word decodes to, when the word is admitted; with no word waiting it is one
tick of the build's variant (log entry 3). -/
def Obligations.StepRunsTheNextWord : Prop :=
  (∀ (s : State) (w : EventWord) (rest : List EventWord) (i : Instr),
    s.build.wf = true → s.script = w :: rest → decode w = .ok i → i.variantOk s.build = true →
    i.flagOk s.build = true → i.feedOk s.feed = true →
    step s = exec i { s with script := rest }) ∧
  ∀ s : State, s.build.wf = true → s.script = [] →
    step s = exec (if s.build.variant = .gpio then .tickG else .tickX) s

/-- Words the stimulus reader refuses (R59, R60, R61, R62): no event word, an operation of the other variant, a flag
the build does not have, a class I word in a stimulus file. Each is refused under its own name. That the step raises
these refusals, ahead of exec, in this order, and that a field says what the words are, is the model's choice (log
entries 16 and 4). -/
def Obligations.StepRefusesByName : Prop :=
  ∀ (s : State) (w : EventWord) (rest : List EventWord), s.build.wf = true → s.script = w :: rest →
    (∀ why, decode w = .error why → step s = .refused (.invalidWord w why)) ∧
    ∀ i, decode w = .ok i →
      ((i.row.backend = .gpioOnly ∧ s.build.variant = .i2c ∨
          i.row.backend = .i2cOnly ∧ s.build.variant = .gpio) →
        step s = .refused (.wrongVariant w)) ∧
      (∀ (p : Player) (k : Flag), (i = .setbt0 p k ∨ i = .setbt1 p k) →
        s.build.variant.nflags ≤ k.val → step s = .refused (.flagAboveNflags w)) ∧
      (i.row.cls = .internal → s.feed = .stimulus →
        (i.variantOk s.build = true → i.flagOk s.build = true → step s = .refused (.internalWord w)) ∧
        ∃ r, step s = .refused r)

/-- A few words of the spec's own vectors decode as it says (R58, table V8 of spec/95_test_vectors.md). -/
def Obligations.VectorWordsDecode : Prop :=
  decodeTableWord 32 0x10040000 = some (.pinL 4) ∧ decodeTableWord 32 0x101D0000 = none ∧
  decodeTableWord 32 0x00001389 = some (.adv 5001) ∧ decodeTableWord 32 0x00000000 = none ∧
  decodeTableWord 32 0x2000FFFB = some (.port 0 0xFFFB) ∧ decodeTableWord 32 0x20020000 = none ∧
  decodeTableWord 32 0x2401FFFF = some (.xInit 1) ∧ decodeTableWord 32 0x24010000 = none ∧
  decodeTableWord 32 0x30000080 = some (.setaxX 0 .mid) ∧ decodeTableWord 32 0x30000001 = none ∧
  decodeTableWord 32 0x32000009 = some (.setbt0 0 9) ∧ decodeTableWord 32 0x3200000C = none ∧
  decodeTableWord 32 0x40010003 = some (.rdb 1 3) ∧ decodeTableWord 32 0xFF000000 = none

/-- The packed forms of pending entries hold every field and can be read back (R55, R56). -/
def Obligations.PendingFormatsRoundTrip : Prop :=
  (∀ e : GEntry, GEntry.unpack e.pack = some e ∧ e.pack % 32 = e.line.val ∧
    e.pack / 32 % 2 = e.rise.toNat ∧ e.pack / 64 = e.due) ∧
  ∀ e : XEntry, XEntry.ofPayload e.payload e.due = e ∧ e.payload.toNat % 65536 = e.snap.toNat ∧
    e.payload.toNat / 65536 = e.chip.val

/-- Script lines become the words R63 says: WAITMS is ADV of m * 1000 in a build with the reference tick rate, EXPECT
is RDR. -/
def Obligations.PseudoOperationsExpand : Prop :=
  (∀ (v : Variant) (m : Nat), 0 < m → m * 1000 < 2 ^ 24 →
    lineOf (Build.reference v) "WAITMS".toList [m] =
      some (.word (encode (.adv (BitVec.ofNat 24 (m * 1000)))))) ∧
  ∀ (b : Build) (p : Player) (b0 b1 b2 b3 : Byte),
    (lineOf b "EXPECT".toList [p.val, b0.toNat, b1.toNat, b2.toNat, b3.toNat]).map ScriptLine.words =
      some [encode (.rdr p)]
end

