-- ==== Sys2Proof/Laws/Decode.lean ====
section
/-! SUPPORT. Sys2Proof/Laws/Decode.lean: the three fields of an assembled word, each operand form read back, and
a word as its fields (spec/30_encoding.md R57, R58). -/

namespace Sys2Proof

theorem fieldOp_assemble (op a : Byte) (d : Half) : fieldOp (assemble op a d) = op := by
  apply BitVec.eq_of_getLsbD_eq
  intro i hi
  simp only [fieldOp, assemble, BitVec.getLsbD_extractLsb', BitVec.getLsbD_append]
  have h2 : ¬ 24 + i - 16 < 8 := by omega
  have h1 : ¬ 24 + i < 16 := by omega
  have h3 : 24 + i - 16 - 8 = i := by omega
  simp [hi, h1, h2, h3]

theorem fieldA_assemble (op a : Byte) (d : Half) : fieldA (assemble op a d) = a := by
  apply BitVec.eq_of_getLsbD_eq
  intro i hi
  simp only [fieldA, assemble, BitVec.getLsbD_extractLsb', BitVec.getLsbD_append]
  have h1 : ¬ 16 + i < 16 := by omega
  have h3 : 16 + i - 16 = i := by omega
  simp [hi, h1, h3]

theorem fieldD_assemble (op a : Byte) (d : Half) : fieldD (assemble op a d) = d := by
  apply BitVec.eq_of_getLsbD_eq
  intro i hi
  simp only [fieldD, assemble, BitVec.getLsbD_extractLsb', BitVec.getLsbD_append]
  simp [hi]

/-- A word is the assembly of its three fields (R57). -/
theorem assemble_fields (w : EventWord) : assemble (fieldOp w) (fieldA w) (fieldD w) = w := by
  apply BitVec.eq_of_getLsbD_eq
  intro i hi
  simp only [fieldOp, fieldA, fieldD, assemble, BitVec.getLsbD_extractLsb', BitVec.getLsbD_append]
  by_cases h1 : i < 16
  · simp [h1]
  · by_cases h2 : i - 16 < 8
    · have h3 : 16 + (i - 16) = i := by omega
      simp [h1, h2, h3]
    · have h3 : 24 + (i - 16 - 8) = i := by omega
      have h4 : i - 16 - 8 < 8 := by omega
      simp [h1, h2, h3, h4]

/-- The word `{op, a, d}` as the number R58 gives: `op * 2^24 + a * 2^16 + d`. -/
theorem assemble_toNat (op a : Byte) (d : Half) :
    (assemble op a d).toNat = op.toNat * 2 ^ 24 + a.toNat * 2 ^ 16 + d.toNat := by
  have hd := d.isLt
  have ha := a.isLt
  simp only [assemble, BitVec.toNat_append, Nat.shiftLeft_eq]
  rw [← Nat.mul_comm (2 ^ 8) op.toNat, ← Nat.two_pow_add_eq_or_of_lt ha]
  rw [← Nat.mul_comm (2 ^ 16), ← Nat.two_pow_add_eq_or_of_lt hd]
  omega

theorem decLine_ofNat (l : Line) : decLine (BitVec.ofNat 8 l.val) = .ok l := by
  fin_cases l <;> rfl

theorem decChip_ofNat (c : Chip) : decChip (BitVec.ofNat 8 c.val) = .ok c := by
  fin_cases c <;> rfl

theorem decPlayer_ofNat (p : Player) : decPlayer (BitVec.ofNat 8 p.val) = .ok p := by
  fin_cases p <;> rfl

theorem decFlag_ofNat (k : Flag) : decFlag (BitVec.ofNat 16 k.val) = .ok k := by
  fin_cases k <;> rfl

theorem decIndex_ofNat (i : ByteIndex) : decIndex (BitVec.ofNat 16 i.val) = .ok i := by
  fin_cases i <;> rfl

theorem decAxis_toByte (v : AxisLevel) : decAxis (v.toByte.setWidth 16) = .ok v := by
  cases v <;> decide

/-- The tick count of ADV is its two fields side by side (R117). -/
theorem count_fields (n : BitVec 24) : n.extractLsb' 16 8 ++ n.extractLsb' 0 16 = n := by
  apply BitVec.eq_of_getLsbD_eq
  intro i hi
  simp only [BitVec.getLsbD_append, BitVec.getLsbD_extractLsb']
  by_cases h : i < 16
  · simp [h]
  · have h2 : 16 + (i - 16) = i := by omega
    have h3 : i - 16 < 8 := by omega
    simp [h, h2, h3]

/-! ### What a decoded operand says about its field -/

theorem decLine_ok {a : Byte} {l : Line} (h : decLine a = .ok l) : BitVec.ofNat 8 l.val = a := by
  unfold decLine at h
  split at h
  · cases h; simp
  · cases h

theorem decChip_ok {a : Byte} {c : Chip} (h : decChip a = .ok c) : BitVec.ofNat 8 c.val = a := by
  unfold decChip at h
  split at h
  · cases h; simp
  · cases h

theorem decPlayer_ok {a : Byte} {p : Player} (h : decPlayer a = .ok p) :
    BitVec.ofNat 8 p.val = a := by
  unfold decPlayer at h
  split at h
  · cases h; simp
  · cases h

theorem decFlag_ok {d : Half} {k : Flag} (h : decFlag d = .ok k) : BitVec.ofNat 16 k.val = d := by
  unfold decFlag at h
  split at h
  · cases h; simp
  · cases h

theorem decIndex_ok {d : Half} {i : ByteIndex} (h : decIndex d = .ok i) :
    BitVec.ofNat 16 i.val = d := by
  unfold decIndex at h
  split at h
  · cases h; simp
  · cases h

theorem decAxis_ok {d : Half} {v : AxisLevel} (h : decAxis d = .ok v) : v.toByte.setWidth 16 = d := by
  unfold decAxis at h
  repeat' split at h
  all_goals first | (cases h; subst_vars; rfl) | cases h

theorem zeroField_ok {n : Nat} {x : BitVec n} {i j : Instr} (h : zeroField x i = .ok j) :
    x = 0 ∧ i = j := by
  unfold zeroField at h
  split at h
  · cases h; exact ⟨by assumption, rfl⟩
  · cases h

theorem decPlain_ok {a : Byte} {d : Half} {i j : Instr} (h : decPlain i a d = .ok j) :
    a = 0 ∧ d = 0 ∧ i = j := by
  unfold decPlain at h
  split at h
  · exact ⟨by assumption, zeroField_ok h⟩
  · cases h

theorem decOnLine_ok {f : Line → Instr} {a : Byte} {d : Half} {j : Instr}
    (h : decOnLine f a d = .ok j) : ∃ l : Line, BitVec.ofNat 8 l.val = a ∧ d = 0 ∧ f l = j := by
  unfold decOnLine at h
  split at h
  · exact ⟨_, decLine_ok (by assumption), zeroField_ok h⟩
  · cases h

theorem decOnChip_ok {f : Chip → Instr} {a : Byte} {d : Half} {j : Instr}
    (h : decOnChip f a d = .ok j) : ∃ c : Chip, BitVec.ofNat 8 c.val = a ∧ d = 0 ∧ f c = j := by
  unfold decOnChip at h
  split at h
  · exact ⟨_, decChip_ok (by assumption), zeroField_ok h⟩
  · cases h

theorem decChipData_ok {f : Chip → Half → Instr} {a : Byte} {d : Half} {j : Instr}
    (h : decChipData f a d = .ok j) : ∃ c : Chip, BitVec.ofNat 8 c.val = a ∧ f c d = j := by
  unfold decChipData at h
  split at h
  · cases h; exact ⟨_, decChip_ok (by assumption), rfl⟩
  · cases h

theorem decPlayerWith_ok {α : Type} {g : Half → Except BadWord α} {f : Player → α → Instr} {a : Byte}
    {d : Half} {j : Instr} (h : decPlayerWith g f a d = .ok j) :
    ∃ (p : Player) (x : α), BitVec.ofNat 8 p.val = a ∧ g d = .ok x ∧ f p x = j := by
  unfold decPlayerWith at h
  split at h
  · split at h
    · cases h; exact ⟨_, _, decPlayer_ok (by assumption), by assumption, rfl⟩
    · cases h
  · cases h

/-- The decoder on an assembled word reads its three fields. -/
theorem decode_assemble (op a : Byte) (d : Half) : decode (assemble op a d) = decodeFields op a d := by
  simp only [decode, fieldOp_assemble, fieldA_assemble, fieldD_assemble]

end Sys2Proof
end

