-- ==== Sys2Proof/Laws/State.lean ====
section
/-! SUPPORT. Sys2Proof/Laws/State.lean: for every named update of the state, one lemma per part of the state, true
by rfl: what the update writes, and that every other part is as before. A later proof rewrites with these
and never unfolds an update. -/

namespace Sys2Proof.Machine

/-! ### `setBuserr` -/

@[simp] theorem setBuserr_build (s : State) : (setBuserr s).build = s.build := rfl

@[simp] theorem setBuserr_block (s : State) :
    (setBuserr s).block = { s.block with buserr := true } := rfl

@[simp] theorem setBuserr_env (s : State) : (setBuserr s).env = s.env := rfl

@[simp] theorem setBuserr_agent (s : State) : (setBuserr s).agent = s.agent := rfl

@[simp] theorem setBuserr_returned (s : State) : (setBuserr s).returned = s.returned := rfl

@[simp] theorem setBuserr_choices (s : State) : (setBuserr s).choices = s.choices := rfl

@[simp] theorem setBuserr_feed (s : State) : (setBuserr s).feed = s.feed := rfl

@[simp] theorem setBuserr_script (s : State) : (setBuserr s).script = s.script := rfl

/-! ### `setOvf` -/

@[simp] theorem setOvf_build (s : State) : (setOvf s).build = s.build := rfl

@[simp] theorem setOvf_block (s : State) : (setOvf s).block = { s.block with ovf := true } := rfl

@[simp] theorem setOvf_env (s : State) : (setOvf s).env = s.env := rfl

@[simp] theorem setOvf_agent (s : State) : (setOvf s).agent = s.agent := rfl

@[simp] theorem setOvf_returned (s : State) : (setOvf s).returned = s.returned := rfl

@[simp] theorem setOvf_choices (s : State) : (setOvf s).choices = s.choices := rfl

@[simp] theorem setOvf_feed (s : State) : (setOvf s).feed = s.feed := rfl

@[simp] theorem setOvf_script (s : State) : (setOvf s).script = s.script := rfl

/-! ### `setLed` -/

@[simp] theorem setLed_build (v : Bool) (s : State) : (setLed v s).build = s.build := rfl

@[simp] theorem setLed_block (v : Bool) (s : State) :
    (setLed v s).block = { s.block with led := v } := rfl

@[simp] theorem setLed_env (v : Bool) (s : State) : (setLed v s).env = s.env := rfl

@[simp] theorem setLed_agent (v : Bool) (s : State) : (setLed v s).agent = s.agent := rfl

@[simp] theorem setLed_returned (v : Bool) (s : State) : (setLed v s).returned = s.returned := rfl

@[simp] theorem setLed_choices (v : Bool) (s : State) : (setLed v s).choices = s.choices := rfl

@[simp] theorem setLed_feed (v : Bool) (s : State) : (setLed v s).feed = s.feed := rfl

@[simp] theorem setLed_script (v : Bool) (s : State) : (setLed v s).script = s.script := rfl

/-! ### `writeAx` -/

@[simp] theorem writeAx_build (p : Player) (v : AxisLevel) (s : State) :
    (writeAx p v s).build = s.build := rfl

@[simp] theorem writeAx_block (p : Player) (v : AxisLevel) (s : State) :
    (writeAx p v s).block = { s.block with ax := s.block.ax.set p v.toByte } := rfl

@[simp] theorem writeAx_env (p : Player) (v : AxisLevel) (s : State) :
    (writeAx p v s).env = s.env := rfl

@[simp] theorem writeAx_agent (p : Player) (v : AxisLevel) (s : State) :
    (writeAx p v s).agent = s.agent := rfl

@[simp] theorem writeAx_returned (p : Player) (v : AxisLevel) (s : State) :
    (writeAx p v s).returned = s.returned := rfl

@[simp] theorem writeAx_choices (p : Player) (v : AxisLevel) (s : State) :
    (writeAx p v s).choices = s.choices := rfl

@[simp] theorem writeAx_feed (p : Player) (v : AxisLevel) (s : State) :
    (writeAx p v s).feed = s.feed := rfl

@[simp] theorem writeAx_script (p : Player) (v : AxisLevel) (s : State) :
    (writeAx p v s).script = s.script := rfl

/-! ### `writeAy` -/

@[simp] theorem writeAy_build (p : Player) (v : AxisLevel) (s : State) :
    (writeAy p v s).build = s.build := rfl

@[simp] theorem writeAy_block (p : Player) (v : AxisLevel) (s : State) :
    (writeAy p v s).block = { s.block with ay := s.block.ay.set p v.toByte } := rfl

@[simp] theorem writeAy_env (p : Player) (v : AxisLevel) (s : State) :
    (writeAy p v s).env = s.env := rfl

@[simp] theorem writeAy_agent (p : Player) (v : AxisLevel) (s : State) :
    (writeAy p v s).agent = s.agent := rfl

@[simp] theorem writeAy_returned (p : Player) (v : AxisLevel) (s : State) :
    (writeAy p v s).returned = s.returned := rfl

@[simp] theorem writeAy_choices (p : Player) (v : AxisLevel) (s : State) :
    (writeAy p v s).choices = s.choices := rfl

@[simp] theorem writeAy_feed (p : Player) (v : AxisLevel) (s : State) :
    (writeAy p v s).feed = s.feed := rfl

@[simp] theorem writeAy_script (p : Player) (v : AxisLevel) (s : State) :
    (writeAy p v s).script = s.script := rfl

/-! ### `writeBt` -/

@[simp] theorem writeBt_build (p : Player) (k : Flag) (v : Bool) (s : State) :
    (writeBt p k v s).build = s.build := rfl

@[simp] theorem writeBt_block (p : Player) (k : Flag) (v : Bool) (s : State) :
    (writeBt p k v s).block = { s.block with bt := s.block.bt.set p ((s.block.bt[p]).set k v) } := rfl

@[simp] theorem writeBt_env (p : Player) (k : Flag) (v : Bool) (s : State) :
    (writeBt p k v s).env = s.env := rfl

@[simp] theorem writeBt_agent (p : Player) (k : Flag) (v : Bool) (s : State) :
    (writeBt p k v s).agent = s.agent := rfl

@[simp] theorem writeBt_returned (p : Player) (k : Flag) (v : Bool) (s : State) :
    (writeBt p k v s).returned = s.returned := rfl

@[simp] theorem writeBt_choices (p : Player) (k : Flag) (v : Bool) (s : State) :
    (writeBt p k v s).choices = s.choices := rfl

@[simp] theorem writeBt_feed (p : Player) (k : Flag) (v : Bool) (s : State) :
    (writeBt p k v s).feed = s.feed := rfl

@[simp] theorem writeBt_script (p : Player) (k : Flag) (v : Bool) (s : State) :
    (writeBt p k v s).script = s.script := rfl

/-! ### `setPendg` -/

@[simp] theorem setPendg_build (q : List GEntry) (s : State) : (setPendg q s).build = s.build := rfl

@[simp] theorem setPendg_block (q : List GEntry) (s : State) :
    (setPendg q s).block = { s.block with pendg := q } := rfl

@[simp] theorem setPendg_env (q : List GEntry) (s : State) : (setPendg q s).env = s.env := rfl

@[simp] theorem setPendg_agent (q : List GEntry) (s : State) : (setPendg q s).agent = s.agent := rfl

@[simp] theorem setPendg_returned (q : List GEntry) (s : State) :
    (setPendg q s).returned = s.returned := rfl

@[simp] theorem setPendg_choices (q : List GEntry) (s : State) :
    (setPendg q s).choices = s.choices := rfl

@[simp] theorem setPendg_feed (q : List GEntry) (s : State) : (setPendg q s).feed = s.feed := rfl

@[simp] theorem setPendg_script (q : List GEntry) (s : State) :
    (setPendg q s).script = s.script := rfl

/-! ### `setPendx` -/

@[simp] theorem setPendx_build (q : List XEntry) (s : State) : (setPendx q s).build = s.build := rfl

@[simp] theorem setPendx_block (q : List XEntry) (s : State) :
    (setPendx q s).block = { s.block with pendx := q } := rfl

@[simp] theorem setPendx_env (q : List XEntry) (s : State) : (setPendx q s).env = s.env := rfl

@[simp] theorem setPendx_agent (q : List XEntry) (s : State) : (setPendx q s).agent = s.agent := rfl

@[simp] theorem setPendx_returned (q : List XEntry) (s : State) :
    (setPendx q s).returned = s.returned := rfl

@[simp] theorem setPendx_choices (q : List XEntry) (s : State) :
    (setPendx q s).choices = s.choices := rfl

@[simp] theorem setPendx_feed (q : List XEntry) (s : State) : (setPendx q s).feed = s.feed := rfl

@[simp] theorem setPendx_script (q : List XEntry) (s : State) :
    (setPendx q s).script = s.script := rfl

/-! ### `setNow` -/

@[simp] theorem setNow_build (n : Nat) (s : State) : (setNow n s).build = s.build := rfl

@[simp] theorem setNow_block (n : Nat) (s : State) :
    (setNow n s).block = { s.block with now := n } := rfl

@[simp] theorem setNow_env (n : Nat) (s : State) : (setNow n s).env = s.env := rfl

@[simp] theorem setNow_agent (n : Nat) (s : State) : (setNow n s).agent = s.agent := rfl

@[simp] theorem setNow_returned (n : Nat) (s : State) : (setNow n s).returned = s.returned := rfl

@[simp] theorem setNow_choices (n : Nat) (s : State) : (setNow n s).choices = s.choices := rfl

@[simp] theorem setNow_feed (n : Nat) (s : State) : (setNow n s).feed = s.feed := rfl

@[simp] theorem setNow_script (n : Nat) (s : State) : (setNow n s).script = s.script := rfl

/-! ### `arm` -/

@[simp] theorem arm_build (s : State) : (arm s).build = s.build := rfl

@[simp] theorem arm_block (s : State) : (arm s).block = { s.block with armed := true } := rfl

@[simp] theorem arm_env (s : State) : (arm s).env = s.env := rfl

@[simp] theorem arm_agent (s : State) : (arm s).agent = s.agent := rfl

@[simp] theorem arm_returned (s : State) : (arm s).returned = s.returned := rfl

@[simp] theorem arm_choices (s : State) : (arm s).choices = s.choices := rfl

@[simp] theorem arm_feed (s : State) : (arm s).feed = s.feed := rfl

@[simp] theorem arm_script (s : State) : (arm s).script = s.script := rfl

/-! ### `writePinq` -/

@[simp] theorem writePinq_build (l : Line) (v : Bool) (s : State) :
    (writePinq l v s).build = s.build := rfl

@[simp] theorem writePinq_block (l : Line) (v : Bool) (s : State) :
    (writePinq l v s).block = { s.block with pinq := s.block.pinq.set l v } := rfl

@[simp] theorem writePinq_env (l : Line) (v : Bool) (s : State) :
    (writePinq l v s).env = s.env := rfl

@[simp] theorem writePinq_agent (l : Line) (v : Bool) (s : State) :
    (writePinq l v s).agent = s.agent := rfl

@[simp] theorem writePinq_returned (l : Line) (v : Bool) (s : State) :
    (writePinq l v s).returned = s.returned := rfl

@[simp] theorem writePinq_choices (l : Line) (v : Bool) (s : State) :
    (writePinq l v s).choices = s.choices := rfl

@[simp] theorem writePinq_feed (l : Line) (v : Bool) (s : State) :
    (writePinq l v s).feed = s.feed := rfl

@[simp] theorem writePinq_script (l : Line) (v : Bool) (s : State) :
    (writePinq l v s).script = s.script := rfl

/-! ### `loadPinq` -/

@[simp] theorem loadPinq_build (s : State) : (loadPinq s).build = s.build := rfl

@[simp] theorem loadPinq_block (s : State) :
    (loadPinq s).block = { s.block with pinq := s.env.pin } := rfl

@[simp] theorem loadPinq_env (s : State) : (loadPinq s).env = s.env := rfl

@[simp] theorem loadPinq_agent (s : State) : (loadPinq s).agent = s.agent := rfl

@[simp] theorem loadPinq_returned (s : State) : (loadPinq s).returned = s.returned := rfl

@[simp] theorem loadPinq_choices (s : State) : (loadPinq s).choices = s.choices := rfl

@[simp] theorem loadPinq_feed (s : State) : (loadPinq s).feed = s.feed := rfl

@[simp] theorem loadPinq_script (s : State) : (loadPinq s).script = s.script := rfl

/-! ### `writePin` -/

@[simp] theorem writePin_build (l : Line) (v : Bool) (s : State) :
    (writePin l v s).build = s.build := rfl

@[simp] theorem writePin_block (l : Line) (v : Bool) (s : State) :
    (writePin l v s).block = s.block := rfl

@[simp] theorem writePin_env (l : Line) (v : Bool) (s : State) :
    (writePin l v s).env = { s.env with pin := s.env.pin.set l v } := rfl

@[simp] theorem writePin_agent (l : Line) (v : Bool) (s : State) :
    (writePin l v s).agent = s.agent := rfl

@[simp] theorem writePin_returned (l : Line) (v : Bool) (s : State) :
    (writePin l v s).returned = s.returned := rfl

@[simp] theorem writePin_choices (l : Line) (v : Bool) (s : State) :
    (writePin l v s).choices = s.choices := rfl

@[simp] theorem writePin_feed (l : Line) (v : Bool) (s : State) :
    (writePin l v s).feed = s.feed := rfl

@[simp] theorem writePin_script (l : Line) (v : Bool) (s : State) :
    (writePin l v s).script = s.script := rfl

/-! ### `writePort` -/

@[simp] theorem writePort_build (c : Chip) (v : Half) (s : State) :
    (writePort c v s).build = s.build := rfl

@[simp] theorem writePort_block (c : Chip) (v : Half) (s : State) :
    (writePort c v s).block = s.block := rfl

@[simp] theorem writePort_env (c : Chip) (v : Half) (s : State) :
    (writePort c v s).env = { s.env with port := s.env.port.set c v } := rfl

@[simp] theorem writePort_agent (c : Chip) (v : Half) (s : State) :
    (writePort c v s).agent = s.agent := rfl

@[simp] theorem writePort_returned (c : Chip) (v : Half) (s : State) :
    (writePort c v s).returned = s.returned := rfl

@[simp] theorem writePort_choices (c : Chip) (v : Half) (s : State) :
    (writePort c v s).choices = s.choices := rfl

@[simp] theorem writePort_feed (c : Chip) (v : Half) (s : State) :
    (writePort c v s).feed = s.feed := rfl

@[simp] theorem writePort_script (c : Chip) (v : Half) (s : State) :
    (writePort c v s).script = s.script := rfl

/-! ### `writeXirq` -/

@[simp] theorem writeXirq_build (c : Chip) (v : Bool) (s : State) :
    (writeXirq c v s).build = s.build := rfl

@[simp] theorem writeXirq_block (c : Chip) (v : Bool) (s : State) :
    (writeXirq c v s).block = s.block := rfl

@[simp] theorem writeXirq_env (c : Chip) (v : Bool) (s : State) :
    (writeXirq c v s).env = { s.env with xirq := s.env.xirq.set c v } := rfl

@[simp] theorem writeXirq_agent (c : Chip) (v : Bool) (s : State) :
    (writeXirq c v s).agent = s.agent := rfl

@[simp] theorem writeXirq_returned (c : Chip) (v : Bool) (s : State) :
    (writeXirq c v s).returned = s.returned := rfl

@[simp] theorem writeXirq_choices (c : Chip) (v : Bool) (s : State) :
    (writeXirq c v s).choices = s.choices := rfl

@[simp] theorem writeXirq_feed (c : Chip) (v : Bool) (s : State) :
    (writeXirq c v s).feed = s.feed := rfl

@[simp] theorem writeXirq_script (c : Chip) (v : Bool) (s : State) :
    (writeXirq c v s).script = s.script := rfl

/-! ### `writeBusf` -/

@[simp] theorem writeBusf_build (n : Nat) (s : State) : (writeBusf n s).build = s.build := rfl

@[simp] theorem writeBusf_block (n : Nat) (s : State) : (writeBusf n s).block = s.block := rfl

@[simp] theorem writeBusf_env (n : Nat) (s : State) :
    (writeBusf n s).env = { s.env with busf := n } := rfl

@[simp] theorem writeBusf_agent (n : Nat) (s : State) : (writeBusf n s).agent = s.agent := rfl

@[simp] theorem writeBusf_returned (n : Nat) (s : State) :
    (writeBusf n s).returned = s.returned := rfl

@[simp] theorem writeBusf_choices (n : Nat) (s : State) : (writeBusf n s).choices = s.choices := rfl

@[simp] theorem writeBusf_feed (n : Nat) (s : State) : (writeBusf n s).feed = s.feed := rfl

@[simp] theorem writeBusf_script (n : Nat) (s : State) : (writeBusf n s).script = s.script := rfl

/-! ### `writeReady` -/

@[simp] theorem writeReady_build (v : Bool) (s : State) : (writeReady v s).build = s.build := rfl

@[simp] theorem writeReady_block (v : Bool) (s : State) : (writeReady v s).block = s.block := rfl

@[simp] theorem writeReady_env (v : Bool) (s : State) :
    (writeReady v s).env = { s.env with chReady := v } := rfl

@[simp] theorem writeReady_agent (v : Bool) (s : State) : (writeReady v s).agent = s.agent := rfl

@[simp] theorem writeReady_returned (v : Bool) (s : State) :
    (writeReady v s).returned = s.returned := rfl

@[simp] theorem writeReady_choices (v : Bool) (s : State) :
    (writeReady v s).choices = s.choices := rfl

@[simp] theorem writeReady_feed (v : Bool) (s : State) : (writeReady v s).feed = s.feed := rfl

@[simp] theorem writeReady_script (v : Bool) (s : State) : (writeReady v s).script = s.script := rfl

/-! ### `giveBack` -/

@[simp] theorem giveBack_build (bs : List Byte) (s : State) : (giveBack bs s).build = s.build := rfl

@[simp] theorem giveBack_block (bs : List Byte) (s : State) : (giveBack bs s).block = s.block := rfl

@[simp] theorem giveBack_env (bs : List Byte) (s : State) : (giveBack bs s).env = s.env := rfl

@[simp] theorem giveBack_agent (bs : List Byte) (s : State) : (giveBack bs s).agent = s.agent := rfl

@[simp] theorem giveBack_returned (bs : List Byte) (s : State) :
    (giveBack bs s).returned = bs := rfl

@[simp] theorem giveBack_choices (bs : List Byte) (s : State) :
    (giveBack bs s).choices = s.choices := rfl

@[simp] theorem giveBack_feed (bs : List Byte) (s : State) : (giveBack bs s).feed = s.feed := rfl

@[simp] theorem giveBack_script (bs : List Byte) (s : State) :
    (giveBack bs s).script = s.script := rfl

/-! ### `useChoice` -/

@[simp] theorem useChoice_build (s : State) : (useChoice s).build = s.build := rfl

@[simp] theorem useChoice_block (s : State) : (useChoice s).block = s.block := rfl

@[simp] theorem useChoice_env (s : State) : (useChoice s).env = s.env := rfl

@[simp] theorem useChoice_agent (s : State) : (useChoice s).agent = s.agent := rfl

@[simp] theorem useChoice_returned (s : State) : (useChoice s).returned = s.returned := rfl

@[simp] theorem useChoice_choices (s : State) : (useChoice s).choices = s.choices + 1 := rfl

@[simp] theorem useChoice_feed (s : State) : (useChoice s).feed = s.feed := rfl

@[simp] theorem useChoice_script (s : State) : (useChoice s).script = s.script := rfl

/-! ### `sendAll` -/

@[simp] theorem sendAll_build (s : State) : (sendAll s).build = s.build := rfl

@[simp] theorem sendAll_block (s : State) : (sendAll s).block = s.block := rfl

@[simp] theorem sendAll_env (s : State) : (sendAll s).env = s.env := rfl

@[simp] theorem sendAll_agent (s : State) :
    (sendAll s).agent = { s.agent with outbuf := allRecords s, txcount := s.agent.txcount + 1 } := rfl

@[simp] theorem sendAll_returned (s : State) : (sendAll s).returned = s.returned := rfl

@[simp] theorem sendAll_choices (s : State) : (sendAll s).choices = s.choices := rfl

@[simp] theorem sendAll_feed (s : State) : (sendAll s).feed = s.feed := rfl

@[simp] theorem sendAll_script (s : State) : (sendAll s).script = s.script := rfl

/-! ### `resetBlock` -/

@[simp] theorem resetBlock_block (s : State) : (resetBlock s).block = Block.reset := rfl

@[simp] theorem resetBlock_agent (s : State) : (resetBlock s).agent = Agent.reset := rfl

@[simp] theorem resetBlock_build (s : State) : (resetBlock s).build = s.build := rfl

@[simp] theorem resetBlock_env (s : State) : (resetBlock s).env = s.env := rfl

@[simp] theorem resetBlock_returned (s : State) : (resetBlock s).returned = s.returned := rfl

@[simp] theorem resetBlock_choices (s : State) : (resetBlock s).choices = s.choices := rfl

@[simp] theorem resetBlock_feed (s : State) : (resetBlock s).feed = s.feed := rfl

@[simp] theorem resetBlock_script (s : State) : (resetBlock s).script = s.script := rfl

end Sys2Proof.Machine
end

