-- ==== Sys2Proof/Laws/Ops.lean ====
section
/-! SUPPORT. Sys2Proof/Laws/Ops.lean: what the shared operations of Machine/Ops.lean can do, each said once: reads
after writes, the record bytes as a view of the register file, the pending stores, the bus. -/

namespace Sys2Proof.Machine

/-! ### Reads after writes -/

theorem readAx_writeAx (p q : Player) (v : AxisLevel) (s : State) :
    readAx q (writeAx p v s) = if p = q then v.toByte else readAx q s := by
  simp [readAx, Vector.getElem_set, Fin.ext_iff]

theorem readAy_writeAy (p q : Player) (v : AxisLevel) (s : State) :
    readAy q (writeAy p v s) = if p = q then v.toByte else readAy q s := by
  simp [readAy, Vector.getElem_set, Fin.ext_iff]

theorem readBt_writeBt (p q : Player) (k j : Flag) (v : Bool) (s : State) :
    readBt q j (writeBt p k v s) = if p = q ∧ k = j then v else readBt q j s := by
  by_cases hp : p = q
  · subst hp
    by_cases hk : k = j
    · subst hk; simp [readBt]
    · have : ¬ k.val = j.val := fun h => hk (Fin.ext h)
      simp [readBt, hk, this]
  · have : ¬ p.val = q.val := fun h => hp (Fin.ext h)
    simp [readBt, hp, this]

@[simp] theorem readAx_writeAy (p q : Player) (v : AxisLevel) (s : State) :
    readAx q (writeAy p v s) = readAx q s := rfl

@[simp] theorem readAx_writeBt (p q : Player) (k : Flag) (v : Bool) (s : State) :
    readAx q (writeBt p k v s) = readAx q s := rfl

@[simp] theorem readAy_writeAx (p q : Player) (v : AxisLevel) (s : State) :
    readAy q (writeAx p v s) = readAy q s := rfl

@[simp] theorem readAy_writeBt (p q : Player) (k : Flag) (v : Bool) (s : State) :
    readAy q (writeBt p k v s) = readAy q s := rfl

@[simp] theorem readBt_writeAx (p q : Player) (k : Flag) (v : AxisLevel) (s : State) :
    readBt q k (writeAx p v s) = readBt q k s := rfl

@[simp] theorem readBt_writeAy (p q : Player) (k : Flag) (v : AxisLevel) (s : State) :
    readBt q k (writeAy p v s) = readBt q k s := rfl

/-- An axis register only ever receives one of three constants (R95). -/
theorem toByte_cases (v : AxisLevel) : v.toByte = 0 ∨ v.toByte = 128 ∨ v.toByte = 255 := by
  cases v <;> simp [AxisLevel.toByte]

/-! ### The record is a view of the register file -/

theorem recordBit_congr {s t : State} (hv : t.build.variant = s.build.variant)
    (hb : t.block.bt = s.block.bt) (p : Player) (n : Nat) : recordBit p n t = recordBit p n s := by
  simp [recordBit, readBt, hv, hb]

theorem flagByte_congr {s t : State} (hv : t.build.variant = s.build.variant)
    (hb : t.block.bt = s.block.bt) (p : Player) (n : Nat) : flagByte p n t = flagByte p n s := by
  simp [flagByte, recordBit_congr hv hb]

/-- A record byte depends on the variant and the register file alone (R31). -/
theorem recordByte_congr {s t : State} (hv : t.build.variant = s.build.variant)
    (hx : t.block.ax = s.block.ax) (hy : t.block.ay = s.block.ay) (hb : t.block.bt = s.block.bt)
    (p : Player) (i : ByteIndex) : recordByte p i t = recordByte p i s := by
  unfold recordByte
  split <;> simp [readAx, readAy, hx, hy, flagByte_congr hv hb]

theorem memRead_congr {s t : State} (hv : t.build.variant = s.build.variant)
    (hx : t.block.ax = s.block.ax) (hy : t.block.ay = s.block.ay) (hb : t.block.bt = s.block.bt)
    (a : Nat) : memRead a t = memRead a s := by
  unfold memRead
  split <;> simp [recordByte_congr hv hx hy hb]

theorem memRead_lt {a : Nat} (h : a < 8) (s : State) :
    memRead a s =
      some (recordByte ⟨a / 4, by omega⟩ ⟨a % 4, Nat.mod_lt _ (by decide)⟩ s) := by
  simp [memRead, h]

theorem memRead_none {a : Nat} (h : 8 ≤ a) (s : State) : memRead a s = none := by
  simp [memRead, Nat.not_lt.mpr h]

/-- The record address `4*p + i` reads byte `i` of player `p`'s record (R30). -/
theorem memRead_recordAddr (p : Player) (i : ByteIndex) (s : State) :
    memRead (recordAddr p i) s = some (recordByte p i s) := by
  have h : 4 * p.val + i.val < 8 := by omega
  have hp : (4 * p.val + i.val) / 4 = p.val := by omega
  have hi : (4 * p.val + i.val) % 4 = i.val := by omega
  simp [recordAddr, memRead, h, hp, hi]

theorem allRecords_get (s : State) (a : Fin 8) :
    (allRecords s)[a] = recordByte ⟨a.val / 4, by omega⟩ ⟨a.val % 4, Nat.mod_lt _ (by decide)⟩ s := by
  match a with
  | 0 | 1 | 2 | 3 | 4 | 5 | 6 | 7 => rfl

theorem packByte_bits : ∀ b0 b1 b2 b3 b4 b5 b6 b7 : Bool,
    let x := packByte b0 b1 b2 b3 b4 b5 b6 b7
    x.getLsbD 0 = b0 ∧ x.getLsbD 1 = b1 ∧ x.getLsbD 2 = b2 ∧ x.getLsbD 3 = b3 ∧
      x.getLsbD 4 = b4 ∧ x.getLsbD 5 = b5 ∧ x.getLsbD 6 = b6 ∧ x.getLsbD 7 = b7 := by
  decide

/-- Bit `j` of a flag byte is the flag it stands for (R34). -/
theorem flagByte_getLsbD (p : Player) (n : Nat) (s : State) (j : Nat) (h : j < 8) :
    (flagByte p n s).getLsbD j = recordBit p (n + j) s := by
  obtain ⟨h0, h1, h2, h3, h4, h5, h6, h7⟩ :=
    packByte_bits (recordBit p n s) (recordBit p (n + 1) s) (recordBit p (n + 2) s)
      (recordBit p (n + 3) s) (recordBit p (n + 4) s) (recordBit p (n + 5) s) (recordBit p (n + 6) s)
      (recordBit p (n + 7) s)
  obtain rfl | rfl | rfl | rfl | rfl | rfl | rfl | rfl :
    j = 0 ∨ j = 1 ∨ j = 2 ∨ j = 3 ∨ j = 4 ∨ j = 5 ∨ j = 6 ∨ j = 7 := by omega
  exacts [h0, h1, h2, h3, h4, h5, h6, h7]

/-! ### Non-normal outcomes -/

@[simp] theorem take_stale (s : State) : take .stale s = s := rfl

@[simp] theorem take_busfail (s : State) : take .busfail s = setBuserr s := rfl

@[simp] theorem take_overflow (s : State) : take .overflow s = setOvf s := rfl

/-! ### The pending stores -/

theorem hasRoom_unbounded {s : State} (h : s.build.pendingCap = none) (n : Nat) :
    hasRoom n s = true := by
  simp [hasRoom, h]

theorem hasRoom_bounded {s : State} {c : Nat} (h : s.build.pendingCap = some c) (n : Nat) :
    hasRoom n s = true ↔ n < c := by
  simp [hasRoom, h]

/-- Scheduling appends one entry, or finds the store full and sets `OVF` (R68). -/
theorem scheduleG_cases (l : Line) (rise : Bool) (s : State) :
    (hasRoom s.block.pendg.length s = true ∧
      scheduleG l rise s = setPendg (s.block.pendg ++ [⟨l, rise, dueTime s⟩]) s) ∨
    (hasRoom s.block.pendg.length s = false ∧ scheduleG l rise s = setOvf s) := by
  unfold scheduleG
  split
  · exact .inl ⟨by assumption, rfl⟩
  · exact .inr ⟨by simpa using ‹¬ hasRoom _ _ = true›, rfl⟩

/-- The same for an expander entry (R83). -/
theorem scheduleX_cases (c : Chip) (v : Half) (s : State) :
    (hasRoom s.block.pendx.length s = true ∧
      scheduleX c v s = setPendx (s.block.pendx ++ [⟨c, v, dueTime s⟩]) s) ∨
    (hasRoom s.block.pendx.length s = false ∧ scheduleX c v s = setOvf s) := by
  unfold scheduleX
  split
  · exact .inl ⟨by assumption, rfl⟩
  · exact .inr ⟨by simpa using ‹¬ hasRoom _ _ = true›, rfl⟩

/-- With no latency an entry is popped exactly when it is due, and no free value is used (R65). -/
theorem popsNow_exact {s : State} (h : s.build.confirmLatencyMax = 0) (due : Nat) :
    popsNow due s = decide (due ≤ s.block.now) := by
  simp only [popsNow, h, Nat.add_zero]
  cases hd : decide (due ≤ s.block.now) <;> simp

/-- An entry that is popped is due (R65). -/
theorem popsNow_due {s : State} {due : Nat} (h : popsNow due s = true) : due ≤ s.block.now := by
  simp only [popsNow, Bool.and_eq_true, decide_eq_true_eq] at h
  exact h.1

/-- An entry at the end of its latency window is popped (R65 corner case (d)). -/
theorem not_popsNow {s : State} {due : Nat} (h : popsNow due s = false) :
    s.block.now < due + s.build.confirmLatencyMax ∨ s.block.now < due := by
  by_contra hn
  simp only [not_or, not_lt] at hn
  simp [popsNow, hn.1, hn.2] at h

theorem afterPopChoice_exact {s : State} (h : s.build.confirmLatencyMax = 0) (due : Nat) :
    afterPopChoice due s = s := by
  have hn : ¬ (due ≤ s.block.now ∧ s.block.now < due + s.build.confirmLatencyMax) := by omega
  simp only [afterPopChoice, if_neg hn]

/-- The question uses at most one free value and leaves everything else. -/
theorem afterPopChoice_cases (due : Nat) (s : State) :
    afterPopChoice due s = s ∨ afterPopChoice due s = useChoice s := by
  unfold afterPopChoice
  split <;> simp

@[simp] theorem afterPopChoice_build (due : Nat) (s : State) :
    (afterPopChoice due s).build = s.build := by
  rcases afterPopChoice_cases due s with h | h <;> simp [h]

@[simp] theorem afterPopChoice_block (due : Nat) (s : State) :
    (afterPopChoice due s).block = s.block := by
  rcases afterPopChoice_cases due s with h | h <;> simp [h]

@[simp] theorem afterPopChoice_env (due : Nat) (s : State) : (afterPopChoice due s).env = s.env := by
  rcases afterPopChoice_cases due s with h | h <;> simp [h]

@[simp] theorem afterPopChoice_agent (due : Nat) (s : State) :
    (afterPopChoice due s).agent = s.agent := by
  rcases afterPopChoice_cases due s with h | h <;> simp [h]

@[simp] theorem afterPopChoice_returned (due : Nat) (s : State) :
    (afterPopChoice due s).returned = s.returned := by
  rcases afterPopChoice_cases due s with h | h <;> simp [h]

@[simp] theorem afterPopChoice_feed (due : Nat) (s : State) :
    (afterPopChoice due s).feed = s.feed := by
  rcases afterPopChoice_cases due s with h | h <;> simp [h]

@[simp] theorem afterPopChoice_script (due : Nat) (s : State) :
    (afterPopChoice due s).script = s.script := by
  rcases afterPopChoice_cases due s with h | h <;> simp [h]

/-! ### The levels, words and events of the environment -/

theorem pinLevel_congr {s t : State} (h : t.env.pin = s.env.pin) (l : Line) :
    pinLevel l t = pinLevel l s := by
  simp [pinLevel, h]

theorem pinqLevel_congr {s t : State} (h : t.block.pinq = s.block.pinq) (l : Line) :
    pinqLevel l t = pinqLevel l s := by
  simp [pinqLevel, h]

theorem portWord_congr {s t : State} (h : t.env.port = s.env.port) (c : Chip) :
    portWord c t = portWord c s := by
  simp [portWord, h]

theorem xirqBit_congr {s t : State} (h : t.env.xirq = s.env.xirq) (c : Chip) :
    xirqBit c t = xirqBit c s := by
  simp [xirqBit, h]

theorem pinLevel_writePin (l m : Line) (v : Bool) (s : State) :
    pinLevel m (writePin l v s) = if l = m then v else pinLevel m s := by
  simp [pinLevel, Vector.getElem_set, Fin.ext_iff]

theorem pinqLevel_writePinq (l m : Line) (v : Bool) (s : State) :
    pinqLevel m (writePinq l v s) = if l = m then v else pinqLevel m s := by
  simp [pinqLevel, Vector.getElem_set, Fin.ext_iff]

theorem portWord_writePort (c d : Chip) (v : Half) (s : State) :
    portWord d (writePort c v s) = if c = d then v else portWord d s := by
  simp [portWord, Vector.getElem_set, Fin.ext_iff]

theorem xirqBit_writeXirq (c d : Chip) (v : Bool) (s : State) :
    xirqBit d (writeXirq c v s) = if c = d then v else xirqBit d s := by
  simp [xirqBit, Vector.getElem_set, Fin.ext_iff]

theorem lineState_awaiting (l : Line) (s : State) :
    lineState l s = .awaiting ↔ ∃ e ∈ s.block.pendg, e.line = l := by
  simp [lineState]

/-! ### The bus -/

/-- A transaction counts `busf` down, uses a free value, or leaves the state as it is (R92). -/
theorem busAfter_cases (s : State) :
    (0 < s.env.busf ∧ busAfter s = writeBusf (s.env.busf - 1) s) ∨
    (s.env.busf = 0 ∧ s.build.freeBus = true ∧ busAfter s = useChoice s) ∨
    (s.env.busf = 0 ∧ s.build.freeBus = false ∧ busAfter s = s) := by
  unfold busAfter
  split
  · exact .inl ⟨by assumption, rfl⟩
  · split
    · exact .inr (.inl ⟨by omega, by assumption, rfl⟩)
    · exact .inr (.inr ⟨by omega, by simpa using ‹¬ _ = true›, rfl⟩)

@[simp] theorem busAfter_build (s : State) : (busAfter s).build = s.build := by
  rcases busAfter_cases s with ⟨_, h⟩ | ⟨_, _, h⟩ | ⟨_, _, h⟩ <;> simp [h]

@[simp] theorem busAfter_block (s : State) : (busAfter s).block = s.block := by
  rcases busAfter_cases s with ⟨_, h⟩ | ⟨_, _, h⟩ | ⟨_, _, h⟩ <;> simp [h]

@[simp] theorem busAfter_agent (s : State) : (busAfter s).agent = s.agent := by
  rcases busAfter_cases s with ⟨_, h⟩ | ⟨_, _, h⟩ | ⟨_, _, h⟩ <;> simp [h]

@[simp] theorem busAfter_returned (s : State) : (busAfter s).returned = s.returned := by
  rcases busAfter_cases s with ⟨_, h⟩ | ⟨_, _, h⟩ | ⟨_, _, h⟩ <;> simp [h]

@[simp] theorem busAfter_feed (s : State) : (busAfter s).feed = s.feed := by
  rcases busAfter_cases s with ⟨_, h⟩ | ⟨_, _, h⟩ | ⟨_, _, h⟩ <;> simp [h]

@[simp] theorem busAfter_script (s : State) : (busAfter s).script = s.script := by
  rcases busAfter_cases s with ⟨_, h⟩ | ⟨_, _, h⟩ | ⟨_, _, h⟩ <;> simp [h]

@[simp] theorem busAfter_pin (s : State) : (busAfter s).env.pin = s.env.pin := by
  rcases busAfter_cases s with ⟨_, h⟩ | ⟨_, _, h⟩ | ⟨_, _, h⟩ <;> simp [h]

@[simp] theorem busAfter_port (s : State) : (busAfter s).env.port = s.env.port := by
  rcases busAfter_cases s with ⟨_, h⟩ | ⟨_, _, h⟩ | ⟨_, _, h⟩ <;> simp [h]

@[simp] theorem busAfter_xirq (s : State) : (busAfter s).env.xirq = s.env.xirq := by
  rcases busAfter_cases s with ⟨_, h⟩ | ⟨_, _, h⟩ | ⟨_, _, h⟩ <;> simp [h]

@[simp] theorem busAfter_chReady (s : State) : (busAfter s).env.chReady = s.env.chReady := by
  rcases busAfter_cases s with ⟨_, h⟩ | ⟨_, _, h⟩ | ⟨_, _, h⟩ <;> simp [h]

/-- With no failure pending and a bus that fails only by `busf`, a transaction succeeds and changes nothing
(R92). -/
theorem bus_quiet {s : State} (hb : s.env.busf = 0) (hf : s.build.freeBus = false) :
    busFailing s = false ∧ busAfter s = s := by
  simp [busFailing, busAfter, hb, hf]

end Sys2Proof.Machine
end

