-- ==== Sys2Proof/Laws/Mapper.lean ====
section
/-! SUPPORT. Sys2Proof/Laws/Mapper.lean: what the state mapper can write: for a line one register or none
(spec/10_state.md R13 (c)), for a word every register of one player (R13 (d), R101). -/

namespace Sys2Proof.Machine

/-- The mapper's effect for a line: one axis write, one flag write, or nothing (R13 (c)). -/
theorem mapPressed_cases (l : Line) (s : State) :
    (∃ p v, mapPressed l s = writeAx p v s) ∨ (∃ p v, mapPressed l s = writeAy p v s) ∨
      (∃ p k, lineMapAt l s = .btn p k ∧ mapPressed l s = writeBt p k true s) ∨ mapPressed l s = s := by
  unfold mapPressed
  split
  · exact .inr (.inl ⟨_, _, rfl⟩)
  · exact .inr (.inl ⟨_, _, rfl⟩)
  · exact .inl ⟨_, _, rfl⟩
  · exact .inl ⟨_, _, rfl⟩
  · exact .inr (.inr (.inl ⟨_, _, by assumption, rfl⟩))
  · exact .inr (.inr (.inr rfl))

theorem mapReleased_cases (l : Line) (s : State) :
    (∃ p v, mapReleased l s = writeAx p v s) ∨ (∃ p v, mapReleased l s = writeAy p v s) ∨
      (∃ p k, lineMapAt l s = .btn p k ∧ mapReleased l s = writeBt p k false s) ∨
        mapReleased l s = s := by
  unfold mapReleased
  split
  · exact .inr (.inl ⟨_, _, rfl⟩)
  · exact .inr (.inl ⟨_, _, rfl⟩)
  · exact .inl ⟨_, _, rfl⟩
  · exact .inl ⟨_, _, rfl⟩
  · exact .inr (.inr (.inl ⟨_, _, by assumption, rfl⟩))
  · exact .inr (.inr (.inr rfl))

/-- Whatever a line's mapper writes, it is reached by writing axes and flags: a property those writes keep
holds after it. -/
theorem mapPressed_preserves {P : State → Prop} (hx : ∀ p v s, P s → P (writeAx p v s))
    (hy : ∀ p v s, P s → P (writeAy p v s)) (hb : ∀ p k v s, P s → P (writeBt p k v s))
    (l : Line) (s : State) (h : P s) : P (mapPressed l s) := by
  rcases mapPressed_cases l s with ⟨p, v, e⟩ | ⟨p, v, e⟩ | ⟨p, k, -, e⟩ | e <;> rw [e]
  exacts [hx p v s h, hy p v s h, hb p k true s h, h]

theorem mapReleased_preserves {P : State → Prop} (hx : ∀ p v s, P s → P (writeAx p v s))
    (hy : ∀ p v s, P s → P (writeAy p v s)) (hb : ∀ p k v s, P s → P (writeBt p k v s))
    (l : Line) (s : State) (h : P s) : P (mapReleased l s) := by
  rcases mapReleased_cases l s with ⟨p, v, e⟩ | ⟨p, v, e⟩ | ⟨p, k, -, e⟩ | e <;> rw [e]
  exacts [hx p v s h, hy p v s h, hb p k false s h, h]

/-- A run of flag writes over any list of flags keeps what single flag writes keep. -/
theorem flagWrites_preserve {P : State → Prop} (p : Player) (f : Flag → Bool)
    (hb : ∀ k v s, P s → P (writeBt p k v s)) (ks : List Flag) (s : State) (h : P s) :
    P (ks.foldl (fun t k => writeBt p k (f k) t) s) := by
  induction ks generalizing s with
  | nil => exact h
  | cons k ks ih => exact ih _ (hb k (f k) s h)

theorem mapWord_preserves {P : State → Prop} (p : Player) (w : Half)
    (hx : ∀ v s, P s → P (writeAx p v s)) (hy : ∀ v s, P s → P (writeAy p v s))
    (hb : ∀ k v s, P s → P (writeBt p k v s)) (s : State) (h : P s) : P (mapWord p w s) :=
  flagWrites_preserve p _ hb _ _ (hy _ _ (hx _ _ h))

/-- What a run of flag writes leaves in a flag: the new value if the flag is in the list. -/
theorem readBt_flagWrites (p q : Player) (f : Flag → Bool) (ks : List Flag) (j : Flag) (s : State) :
    readBt q j (ks.foldl (fun t k => writeBt p k (f k) t) s) =
      if p = q ∧ j ∈ ks then f j else readBt q j s := by
  induction ks generalizing s with
  | nil => simp
  | cons k ks ih =>
    rw [List.foldl_cons, ih, readBt_writeBt]
    by_cases hp : p = q
    · by_cases hk : k = j
      · subst hk; by_cases hm : k ∈ ks <;> simp [hp, hm]
      · have : ¬ j = k := fun e => hk e.symm
        simp [hp, hk, this]
    · simp [hp]

theorem readBt_mapWord (p q : Player) (w : Half) (j : Flag) (s : State) :
    readBt q j (mapWord p w s) = if p = q then wordFlag w j else readBt q j s := by
  simp [mapWord, writeWordFlags, readBt_flagWrites]

theorem readAx_mapWord (p q : Player) (w : Half) (s : State) :
    readAx q (mapWord p w s) = if p = q then (wordX w).toByte else readAx q s := by
  have h : readAx q (mapWord p w s) = readAx q (writeAy p (wordY w) (writeAx p (wordX w) s)) :=
    flagWrites_preserve (P := fun t => readAx q t = _) p _ (fun k v s h => h) _ _ rfl
  rw [h, readAx_writeAy, readAx_writeAx]

theorem readAy_mapWord (p q : Player) (w : Half) (s : State) :
    readAy q (mapWord p w s) = if p = q then (wordY w).toByte else readAy q s := by
  have h : readAy q (mapWord p w s) = readAy q (writeAy p (wordY w) (writeAx p (wordX w) s)) :=
    flagWrites_preserve (P := fun t => readAy q t = _) p _ (fun k v s h => h) _ _ rfl
  rw [h, readAy_writeAy, readAy_writeAx]

/-! ### Everything but the register file -/

/-- `t` is `s` but for the register file. -/
def SameButRegs (s t : State) : Prop :=
  t = { s with block := { s.block with ax := t.block.ax, ay := t.block.ay, bt := t.block.bt } }

theorem SameButRegs.refl (s : State) : SameButRegs s s := rfl

theorem SameButRegs.trans {s t u : State} (h : SameButRegs s t) (h' : SameButRegs t u) :
    SameButRegs s u := by
  unfold SameButRegs at *
  rw [h', h]

theorem writeAx_sameButRegs (p : Player) (v : AxisLevel) (s : State) :
    SameButRegs s (writeAx p v s) := rfl

theorem writeAy_sameButRegs (p : Player) (v : AxisLevel) (s : State) :
    SameButRegs s (writeAy p v s) := rfl

theorem writeBt_sameButRegs (p : Player) (k : Flag) (v : Bool) (s : State) :
    SameButRegs s (writeBt p k v s) := rfl

theorem mapPressed_sameButRegs (l : Line) (s : State) : SameButRegs s (mapPressed l s) :=
  mapPressed_preserves (P := SameButRegs s) (fun p v t h => h.trans (writeAx_sameButRegs p v t))
    (fun p v t h => h.trans (writeAy_sameButRegs p v t))
    (fun p k v t h => h.trans (writeBt_sameButRegs p k v t)) l s (.refl s)

theorem mapReleased_sameButRegs (l : Line) (s : State) : SameButRegs s (mapReleased l s) :=
  mapReleased_preserves (P := SameButRegs s) (fun p v t h => h.trans (writeAx_sameButRegs p v t))
    (fun p v t h => h.trans (writeAy_sameButRegs p v t))
    (fun p k v t h => h.trans (writeBt_sameButRegs p k v t)) l s (.refl s)

theorem mapWord_sameButRegs (p : Player) (w : Half) (s : State) : SameButRegs s (mapWord p w s) :=
  mapWord_preserves (P := SameButRegs s) p w (fun v t h => h.trans (writeAx_sameButRegs p v t))
    (fun v t h => h.trans (writeAy_sameButRegs p v t))
    (fun k v t h => h.trans (writeBt_sameButRegs p k v t)) s (.refl s)

end Sys2Proof.Machine
end

