-- ==== Sys2Proof/Laws/PerInstr.lean ====
section
/-! SUPPORT. Sys2Proof/Laws/PerInstr.lean: the families of LAWS.json, one lemma per operation. `EncodeFields`: the
three fields of an operation's word are its row's `op` and its two operand fields
(spec/30_encoding.md R58). -/

namespace Sys2Proof.Laws.EncodeFields

/-- The fields of the word of `i`. -/
def Statement (i : Instr) : Prop :=
  fieldOp (encode i) = i.row.op ∧ Sys2Proof.fieldA (encode i) = i.fieldA ∧
    Sys2Proof.fieldD (encode i) = i.fieldD

theorem of_assemble (i : Instr) : Statement i :=
  ⟨fieldOp_assemble _ _ _, fieldA_assemble _ _ _, fieldD_assemble _ _ _⟩

theorem adv (n : BitVec 24) : Statement (.adv n) := of_assemble _

theorem reset : Statement .reset := of_assemble _

theorem pinL (l : Line) : Statement (.pinL l) := of_assemble _

theorem pinH (l : Line) : Statement (.pinH l) := of_assemble _

theorem gFall (l : Line) : Statement (.gFall l) := of_assemble _

theorem gRise (l : Line) : Statement (.gRise l) := of_assemble _

theorem gConfF (l : Line) : Statement (.gConfF l) := of_assemble _

theorem gConfR (l : Line) : Statement (.gConfR l) := of_assemble _

theorem tickG : Statement .tickG := of_assemble _

theorem port (c : Chip) (v : Half) : Statement (.port c v) := of_assemble _

theorem irq (c : Chip) : Statement (.irq c) := of_assemble _

theorem xIrq (c : Chip) : Statement (.xIrq c) := of_assemble _

theorem xConf (c : Chip) (v : Half) : Statement (.xConf c v) := of_assemble _

theorem xInit (c : Chip) : Statement (.xInit c) := of_assemble _

theorem busf (n : Half) : Statement (.busf n) := of_assemble _

theorem tickX : Statement .tickX := of_assemble _

theorem setaxX (p : Player) (v : AxisLevel) : Statement (.setaxX p v) := of_assemble _

theorem setaxY (p : Player) (v : AxisLevel) : Statement (.setaxY p v) := of_assemble _

theorem setbt0 (p : Player) (k : Flag) : Statement (.setbt0 p k) := of_assemble _

theorem setbt1 (p : Player) (k : Flag) : Statement (.setbt1 p k) := of_assemble _

theorem mapw (p : Player) (w : Half) : Statement (.mapw p w) := of_assemble _

theorem led0 : Statement .led0 := of_assemble _

theorem led1 : Statement .led1 := of_assemble _

theorem maplR (l : Line) : Statement (.maplR l) := of_assemble _

theorem maplP (l : Line) : Statement (.maplP l) := of_assemble _

theorem rdb (p : Player) (i : ByteIndex) : Statement (.rdb p i) := of_assemble _

theorem rdr (p : Player) : Statement (.rdr p) := of_assemble _

theorem rdy0 : Statement .rdy0 := of_assemble _

theorem rdy1 : Statement .rdy1 := of_assemble _

theorem rtick : Statement .rtick := of_assemble _

end Sys2Proof.Laws.EncodeFields
end

