-- ==== Sys2Proof/Laws/Reader.lean ====
section
/-! SUPPORT. Sys2Proof/Laws/Reader.lean: the reader agent writes its own buffer and nothing of the block or the
environment (spec/43_read_port.md R114, spec/60_exceptions.md R134); the end of a tick adds 1 to `NOW`. -/

namespace Sys2Proof.Machine

@[simp] theorem copyByte_build (a : Fin 8) (s : State) : (copyByte a s).build = s.build := by
  unfold copyByte; split <;> rfl

@[simp] theorem copyByte_block (a : Fin 8) (s : State) : (copyByte a s).block = s.block := by
  unfold copyByte; split <;> rfl

@[simp] theorem copyByte_env (a : Fin 8) (s : State) : (copyByte a s).env = s.env := by
  unfold copyByte; split <;> rfl

@[simp] theorem copyByte_returned (a : Fin 8) (s : State) : (copyByte a s).returned = s.returned := by
  unfold copyByte; split <;> rfl

@[simp] theorem copyByte_choices (a : Fin 8) (s : State) : (copyByte a s).choices = s.choices := by
  unfold copyByte; split <;> rfl

@[simp] theorem copyByte_feed (a : Fin 8) (s : State) : (copyByte a s).feed = s.feed := by
  unfold copyByte; split <;> rfl

@[simp] theorem copyByte_script (a : Fin 8) (s : State) : (copyByte a s).script = s.script := by
  unfold copyByte; split <;> rfl

@[simp] theorem copySome_build (n : Nat) (s : State) : (copySome n s).build = s.build := by
  induction n generalizing s with
  | zero => rfl
  | succ n ih =>
    unfold copySome
    split
    · rfl
    · split
      · rw [ih]; simp
      · simp

@[simp] theorem copySome_block (n : Nat) (s : State) : (copySome n s).block = s.block := by
  induction n generalizing s with
  | zero => rfl
  | succ n ih =>
    unfold copySome
    split
    · rfl
    · split
      · rw [ih]; simp
      · simp

@[simp] theorem copySome_env (n : Nat) (s : State) : (copySome n s).env = s.env := by
  induction n generalizing s with
  | zero => rfl
  | succ n ih =>
    unfold copySome
    split
    · rfl
    · split
      · rw [ih]; simp
      · simp

@[simp] theorem copySome_returned (n : Nat) (s : State) : (copySome n s).returned = s.returned := by
  induction n generalizing s with
  | zero => rfl
  | succ n ih =>
    unfold copySome
    split
    · rfl
    · split
      · rw [ih]; simp
      · simp

@[simp] theorem copySome_feed (n : Nat) (s : State) : (copySome n s).feed = s.feed := by
  induction n generalizing s with
  | zero => rfl
  | succ n ih =>
    unfold copySome
    split
    · rfl
    · split
      · rw [ih]; simp
      · simp

@[simp] theorem copySome_script (n : Nat) (s : State) : (copySome n s).script = s.script := by
  induction n generalizing s with
  | zero => rfl
  | succ n ih =>
    unfold copySome
    split
    · rfl
    · split
      · rw [ih]; simp
      · simp

@[simp] theorem startCopy_build (s : State) : (startCopy s).build = s.build := by
  unfold startCopy; split <;> rfl

@[simp] theorem startCopy_block (s : State) : (startCopy s).block = s.block := by
  unfold startCopy; split <;> rfl

@[simp] theorem startCopy_env (s : State) : (startCopy s).env = s.env := by
  unfold startCopy; split <;> rfl

@[simp] theorem startCopy_returned (s : State) : (startCopy s).returned = s.returned := by
  unfold startCopy; split <;> rfl

@[simp] theorem startCopy_choices (s : State) : (startCopy s).choices = s.choices := by
  unfold startCopy; split <;> rfl

@[simp] theorem startCopy_feed (s : State) : (startCopy s).feed = s.feed := by
  unfold startCopy; split <;> rfl

@[simp] theorem startCopy_script (s : State) : (startCopy s).script = s.script := by
  unfold startCopy; split <;> rfl

@[simp] theorem report_build (s : State) : (report s).build = s.build := by
  unfold report
  split
  · split <;> simp
  · split <;> simp

@[simp] theorem report_block (s : State) : (report s).block = s.block := by
  unfold report
  split
  · split <;> simp
  · split <;> simp

@[simp] theorem report_env (s : State) : (report s).env = s.env := by
  unfold report
  split
  · split <;> simp
  · split <;> simp

@[simp] theorem report_returned (s : State) : (report s).returned = s.returned := by
  unfold report
  split
  · split <;> simp
  · split <;> simp

@[simp] theorem report_feed (s : State) : (report s).feed = s.feed := by
  unfold report
  split
  · split <;> simp
  · split <;> simp

@[simp] theorem report_script (s : State) : (report s).script = s.script := by
  unfold report
  split
  · split <;> simp
  · split <;> simp

@[simp] theorem reportGoesOn_build (s : State) : (reportGoesOn s).build = s.build := by
  unfold reportGoesOn; split <;> simp

@[simp] theorem reportGoesOn_block (s : State) : (reportGoesOn s).block = s.block := by
  unfold reportGoesOn; split <;> simp

@[simp] theorem reportGoesOn_env (s : State) : (reportGoesOn s).env = s.env := by
  unfold reportGoesOn; split <;> simp

@[simp] theorem reportGoesOn_returned (s : State) : (reportGoesOn s).returned = s.returned := by
  unfold reportGoesOn; split <;> simp

@[simp] theorem reportGoesOn_feed (s : State) : (reportGoesOn s).feed = s.feed := by
  unfold reportGoesOn; split <;> simp

@[simp] theorem reportGoesOn_script (s : State) : (reportGoesOn s).script = s.script := by
  unfold reportGoesOn; split <;> simp

@[simp] theorem endTick_build (s : State) : (endTick s).build = s.build := by
  unfold endTick; split <;> simp

@[simp] theorem endTick_env (s : State) : (endTick s).env = s.env := by
  unfold endTick; split <;> simp

@[simp] theorem endTick_returned (s : State) : (endTick s).returned = s.returned := by
  unfold endTick; split <;> simp

@[simp] theorem endTick_feed (s : State) : (endTick s).feed = s.feed := by
  unfold endTick; split <;> simp

@[simp] theorem endTick_script (s : State) : (endTick s).script = s.script := by
  unfold endTick; split <;> simp

/-- The end of a tick changes the block by `NOW <- NOW + 1` alone (R65). -/
@[simp] theorem endTick_block (s : State) :
    (endTick s).block = { s.block with now := s.block.now + 1 } := by
  unfold endTick; split <;> simp

/-- In the reference schedule a tick's report phase sends when it is a report tick with the channel ready,
and otherwise leaves the agent alone (R115). -/
theorem endTick_agent {s : State} (h : s.build.tornReports = false) :
    (endTick s).agent =
      if isReportTick s = true ∧ s.env.chReady = true then (sendAll s).agent else s.agent := by
  unfold endTick
  by_cases hr : isReportTick s = true
  · by_cases hc : s.env.chReady = true <;> simp [hr, hc, report, h]
  · simp [hr, reportGoesOn, h]

/-- In the reference schedule the reader agent uses no free value. -/
theorem endTick_choices {s : State} (h : s.build.tornReports = false) :
    (endTick s).choices = s.choices := by
  unfold endTick
  by_cases hr : isReportTick s = true
  · by_cases hc : s.env.chReady = true <;> simp [hr, hc, report, h]
  · simp [hr, reportGoesOn, h]

end Sys2Proof.Machine
end

