-- ==== Sys2Proof/Laws/Phases.lean ====
section
/-! SUPPORT. Sys2Proof/Laws/Phases.lean: what a confirmation, an interrupt, a boot write and a tick can do, each
said once, and one induction per loop: a property that every operation inside a phase keeps holds after the
phase, the tick and any number of ticks. -/

namespace Sys2Proof.Machine

/-! ### Confirmations, interrupts, boot writes -/

/-- STALE, a confirmed press or a confirmed release (R70). -/
theorem gConfirm_cases (l : Line) (rise : Bool) (s : State) :
    (pinLevel l s ≠ rise ∧ gConfirm l rise s = s) ∨
    (pinLevel l s = rise ∧ rise = true ∧ gConfirm l rise s = setLed false (mapReleased l s)) ∨
    (pinLevel l s = rise ∧ rise = false ∧ gConfirm l rise s = setLed true (mapPressed l s)) := by
  unfold gConfirm
  by_cases h : pinLevel l s = rise
  · cases rise <;> simp [impliedLevel, h]
  · simp [impliedLevel, h]

/-- BUSFAIL, STALE or a confirmed word (R85, R130). -/
theorem xConfirm_cases (c : Chip) (snap : Half) (s : State) :
    (busFailing s = true ∧ xConfirm c snap s = setBuserr (busAfter s)) ∨
    (busFailing s = false ∧ portWord c s ≠ snap ∧ xConfirm c snap s = busAfter s) ∨
    (busFailing s = false ∧ portWord c s = snap ∧
      xConfirm c snap s =
        setLed (indicatorOf (invertPort snap)) (mapWord c (invertPort snap) (busAfter s))) := by
  unfold xConfirm busRead16
  by_cases hf : busFailing s = true
  · simp [hf]
  · by_cases hv : portWord c s = snap <;> simp [hf, hv]

/-- BUSFAIL, or one entry scheduled with the port's word as its first snapshot (R83, R130). -/
theorem xInterrupt_cases (c : Chip) (s : State) :
    (busFailing s = true ∧ xInterrupt c s = setBuserr (busAfter s)) ∨
    (busFailing s = false ∧ xInterrupt c s = scheduleX c (portWord c s) (busAfter s)) := by
  unfold xInterrupt busRead16
  by_cases hf : busFailing s = true <;> simp [hf]

/-- BUSFAIL, or nothing but the transaction (R82). -/
theorem xInitialise_cases (c : Chip) (s : State) :
    (busFailing s = true ∧ xInitialise c s = setBuserr (busAfter s)) ∨
    (busFailing s = false ∧ xInitialise c s = busAfter s) := by
  unfold xInitialise busWrite16
  by_cases hf : busFailing s = true <;> simp [hf]

/-- One line of the detect phase: no edge, or an entry scheduled and the new level remembered (R65). -/
theorem detectLine_cases (s : State) (l : Line) :
    (pinLevel l s = pinqLevel l s ∧ detectLine s l = s) ∨
    (pinLevel l s ≠ pinqLevel l s ∧
      detectLine s l = writePinq l (pinLevel l s) (scheduleG l (pinLevel l s) s)) := by
  unfold detectLine
  split
  · exact .inl ⟨by assumption, rfl⟩
  · exact .inr ⟨by assumption, rfl⟩

/-- One chip of the interrupt phase: no event, or the event cleared and the handler run (R80). -/
theorem serveChip_cases (s : State) (c : Chip) :
    (xirqBit c s = false ∧ serveChip s c = s) ∨
    (xirqBit c s = true ∧ serveChip s c = xInterrupt c (writeXirq c false s)) := by
  unfold serveChip
  by_cases h : xirqBit c s = true <;> simp [h]

/-! ### One induction per loop -/

section
variable {P : State → Prop}

theorem foldl_preserves {α : Type} (f : State → α → State) (hf : ∀ a s, P s → P (f s a))
    (xs : List α) (s : State) (h : P s) : P (xs.foldl f s) := by
  induction xs generalizing s with
  | nil => exact h
  | cons x xs ih => exact ih _ (hf x s h)

/-- The confirm phase of the GPIO variant. `hpop` covers one popped entry, `hkeep` the question put for an
entry that stays. -/
theorem confirmPhaseG_preserves (hkeep : ∀ due s, P s → P (afterPopChoice due s))
    (hpop : ∀ e rest s, P s → s.block.pendg = e :: rest → popsNow e.due s = true →
      P (gConfirm e.line e.rise (setPendg rest (afterPopChoice e.due s))))
    (hstore : ∀ l r s, (gConfirm l r s).block.pendg = s.block.pendg)
    (q : List GEntry) (s : State) (hq : s.block.pendg = q) (h : P s) : P (confirmPhaseG q s) := by
  induction q generalizing s with
  | nil => exact h
  | cons e rest ih =>
    unfold confirmPhaseG
    split
    · exact ih _ (by simp [hstore]) (hpop e rest s h hq (by assumption))
    · exact hkeep _ _ h

theorem confirmPhaseX_preserves (hkeep : ∀ due s, P s → P (afterPopChoice due s))
    (hpop : ∀ e rest s, P s → s.block.pendx = e :: rest → popsNow e.due s = true →
      P (xConfirm e.chip e.snap (setPendx rest (afterPopChoice e.due s))))
    (hstore : ∀ c v s, (xConfirm c v s).block.pendx = s.block.pendx)
    (q : List XEntry) (s : State) (hq : s.block.pendx = q) (h : P s) : P (confirmPhaseX q s) := by
  induction q generalizing s with
  | nil => exact h
  | cons e rest ih =>
    unfold confirmPhaseX
    split
    · exact ih _ (by simp [hstore]) (hpop e rest s h hq (by assumption))
    · exact hkeep _ _ h

theorem advance_preserves (ht : ∀ s, P s → P (tick s)) (n : Nat) (s : State) (h : P s) :
    P (advance n s) := by
  induction n generalizing s with
  | zero => exact h
  | succ n ih => exact ih _ (ht s h)

end

/-! ### What a confirmation leaves alone -/

theorem sameButRegs_pendg {s t : State} (h : SameButRegs s t) : t.block.pendg = s.block.pendg := by
  rw [h]

theorem sameButRegs_pendx {s t : State} (h : SameButRegs s t) : t.block.pendx = s.block.pendx := by
  rw [h]

theorem sameButRegs_env {s t : State} (h : SameButRegs s t) : t.env = s.env := by
  rw [h]

theorem sameButRegs_build {s t : State} (h : SameButRegs s t) : t.build = s.build := by
  rw [h]

/-- A confirmation touches no pending store (R70). -/
@[simp] theorem gConfirm_pendg (l : Line) (rise : Bool) (s : State) :
    (gConfirm l rise s).block.pendg = s.block.pendg := by
  rcases gConfirm_cases l rise s with ⟨_, h⟩ | ⟨_, _, h⟩ | ⟨_, _, h⟩ <;>
    simp [h, sameButRegs_pendg (mapReleased_sameButRegs l s), sameButRegs_pendg (mapPressed_sameButRegs l s)]

@[simp] theorem gConfirm_env (l : Line) (rise : Bool) (s : State) : (gConfirm l rise s).env = s.env := by
  rcases gConfirm_cases l rise s with ⟨_, h⟩ | ⟨_, _, h⟩ | ⟨_, _, h⟩ <;>
    simp [h, sameButRegs_env (mapReleased_sameButRegs l s), sameButRegs_env (mapPressed_sameButRegs l s)]

@[simp] theorem gConfirm_build (l : Line) (rise : Bool) (s : State) :
    (gConfirm l rise s).build = s.build := by
  rcases gConfirm_cases l rise s with ⟨_, h⟩ | ⟨_, _, h⟩ | ⟨_, _, h⟩ <;>
    simp [h, sameButRegs_build (mapReleased_sameButRegs l s),
      sameButRegs_build (mapPressed_sameButRegs l s)]

/-- A confirmation of an expander entry appends nothing (R87). -/
@[simp] theorem xConfirm_pendx (c : Chip) (snap : Half) (s : State) :
    (xConfirm c snap s).block.pendx = s.block.pendx := by
  rcases xConfirm_cases c snap s with ⟨_, h⟩ | ⟨_, _, h⟩ | ⟨_, _, h⟩ <;>
    simp [h, sameButRegs_pendx (mapWord_sameButRegs c _ _)]

@[simp] theorem xConfirm_build (c : Chip) (snap : Half) (s : State) :
    (xConfirm c snap s).build = s.build := by
  rcases xConfirm_cases c snap s with ⟨_, h⟩ | ⟨_, _, h⟩ | ⟨_, _, h⟩ <;>
    simp [h, sameButRegs_build (mapWord_sameButRegs c _ _)]

/-! ### What scheduling leaves alone -/

@[simp] theorem scheduleG_build (l : Line) (rise : Bool) (s : State) :
    (scheduleG l rise s).build = s.build := by
  rcases scheduleG_cases l rise s with ⟨_, h⟩ | ⟨_, h⟩ <;> simp [h]

@[simp] theorem scheduleG_env (l : Line) (rise : Bool) (s : State) :
    (scheduleG l rise s).env = s.env := by
  rcases scheduleG_cases l rise s with ⟨_, h⟩ | ⟨_, h⟩ <;> simp [h]

@[simp] theorem scheduleG_now (l : Line) (rise : Bool) (s : State) :
    (scheduleG l rise s).block.now = s.block.now := by
  rcases scheduleG_cases l rise s with ⟨_, h⟩ | ⟨_, h⟩ <;> simp [h]

@[simp] theorem scheduleG_pinq (l : Line) (rise : Bool) (s : State) :
    (scheduleG l rise s).block.pinq = s.block.pinq := by
  rcases scheduleG_cases l rise s with ⟨_, h⟩ | ⟨_, h⟩ <;> simp [h]

@[simp] theorem scheduleX_build (c : Chip) (v : Half) (s : State) :
    (scheduleX c v s).build = s.build := by
  rcases scheduleX_cases c v s with ⟨_, h⟩ | ⟨_, h⟩ <;> simp [h]

@[simp] theorem scheduleX_env (c : Chip) (v : Half) (s : State) : (scheduleX c v s).env = s.env := by
  rcases scheduleX_cases c v s with ⟨_, h⟩ | ⟨_, h⟩ <;> simp [h]

@[simp] theorem scheduleX_now (c : Chip) (v : Half) (s : State) :
    (scheduleX c v s).block.now = s.block.now := by
  rcases scheduleX_cases c v s with ⟨_, h⟩ | ⟨_, h⟩ <;> simp [h]

/-! ### Time -/

@[simp] theorem advance_zero (s : State) : advance 0 s = s := rfl

theorem advance_succ (n : Nat) (s : State) : advance (n + 1) s = advance n (tick s) := rfl

theorem advance_add (m n : Nat) (s : State) : advance (m + n) s = advance n (advance m s) := by
  induction m generalizing s with
  | zero => simp
  | succ m ih => rw [Nat.succ_add, advance_succ, ih, advance_succ]

/-- A tick is the tick of the build's variant (R117). -/
theorem tick_gpio {s : State} (h : s.build.variant = .gpio) : tick s = tickGpio s := by
  simp [tick, h]

theorem tick_i2c {s : State} (h : s.build.variant = .i2c) : tick s = tickExpander s := by
  simp [tick, h]

end Sys2Proof.Machine
end

