-- ==== Sys2Proof/Laws/Ticks.lean ====
section
/-! SUPPORT. Sys2Proof/Laws/Ticks.lean: a tick as the operations it performs (spec/40_gpio_debounce.md R65,
spec/41_expander_debounce.md R80): `after` of each operation a tick performs, the confirm phases as folds over the
due entries when there is no latency, and the report phase as RTICK (spec/43_read_port.md R115). -/

namespace Sys2Proof.Machine

/-! ### The state an operation leaves -/

theorem after_of_next {i : Instr} {s t : State} (h : exec i s = .next t) : after i s = t := by
  simp [after, h]

@[simp] theorem after_gFall (l : Line) (s : State) : after (.gFall l) s = scheduleG l false s := rfl
@[simp] theorem after_gRise (l : Line) (s : State) : after (.gRise l) s = scheduleG l true s := rfl
@[simp] theorem after_gConfF (l : Line) (s : State) : after (.gConfF l) s = gConfirm l false s := rfl
@[simp] theorem after_gConfR (l : Line) (s : State) : after (.gConfR l) s = gConfirm l true s := rfl
@[simp] theorem after_xIrq (c : Chip) (s : State) : after (.xIrq c) s = xInterrupt c s := rfl
@[simp] theorem after_xConf (c : Chip) (v : Half) (s : State) : after (.xConf c v) s = xConfirm c v s := rfl
@[simp] theorem after_xInit (c : Chip) (s : State) : after (.xInit c) s = xInitialise c s := rfl
@[simp] theorem after_rtick (s : State) : after .rtick s = report s := rfl
@[simp] theorem after_tickG (s : State) : after .tickG s = tickGpio s := rfl
@[simp] theorem after_tickX (s : State) : after .tickX s = tickExpander s := rfl
@[simp] theorem after_adv (n : BitVec 24) (s : State) : after (.adv n) s = advance n.toNat s := rfl

/-- The confirmation of an entry is G.CONF.R or G.CONF.F by its direction (R65). -/
theorem after_confirm (l : Line) (rise : Bool) (s : State) :
    after (if rise then .gConfR l else .gConfF l) s = gConfirm l rise s := by
  cases rise <;> rfl

/-- An edge is G.RISE or G.FALL by the new level (R65). -/
theorem after_edge (l : Line) (rise : Bool) (s : State) :
    after (if rise then .gRise l else .gFall l) s = scheduleG l rise s := by
  cases rise <;> rfl

/-! ### A confirmation does not look at its store -/

theorem mapPressed_setPendg (l : Line) (q : List GEntry) (s : State) :
    mapPressed l (setPendg q s) = setPendg q (mapPressed l s) := by
  unfold mapPressed lineMapAt
  rw [setPendg_build]
  rcases s.build.lineMap[l] with ⟨p, d⟩ | ⟨p, k⟩ | _
  · cases d <;> rfl
  · rfl
  · rfl

theorem mapReleased_setPendg (l : Line) (q : List GEntry) (s : State) :
    mapReleased l (setPendg q s) = setPendg q (mapReleased l s) := by
  unfold mapReleased lineMapAt
  rw [setPendg_build]
  rcases s.build.lineMap[l] with ⟨p, d⟩ | ⟨p, k⟩ | _
  · cases d <;> rfl
  · rfl
  · rfl

/-- R70: the decision reads no other entry. -/
theorem gConfirm_setPendg (l : Line) (rise : Bool) (q : List GEntry) (s : State) :
    gConfirm l rise (setPendg q s) = setPendg q (gConfirm l rise s) := by
  unfold gConfirm pinLevel
  rw [setPendg_env, mapReleased_setPendg, mapPressed_setPendg]
  split
  · rfl
  · cases rise <;> rfl

theorem flagWrites_setPendx (p : Player) (f : Flag → Bool) (ks : List Flag) (q : List XEntry) (s : State) :
    ks.foldl (fun t k => writeBt p k (f k) t) (setPendx q s) =
      setPendx q (ks.foldl (fun t k => writeBt p k (f k) t) s) := by
  induction ks generalizing s with
  | nil => rfl
  | cons k ks ih => exact ih (writeBt p k (f k) s)

theorem mapWord_setPendx (p : Player) (w : Half) (q : List XEntry) (s : State) :
    mapWord p w (setPendx q s) = setPendx q (mapWord p w s) :=
  flagWrites_setPendx p _ _ q (writeAy p (wordY w) (writeAx p (wordX w) s))

theorem busAfter_setPendx (q : List XEntry) (s : State) : busAfter (setPendx q s) = setPendx q (busAfter s) := by
  unfold busAfter
  simp only [setPendx_env, setPendx_build]
  by_cases h : 0 < s.env.busf
  · simp only [h, if_true]; rfl
  · by_cases hb : s.build.freeBus = true <;> simp only [h, hb, if_false, if_true, Bool.false_eq_true]
    rfl

/-- R85: the decision reads no other entry. -/
theorem xConfirm_setPendx (c : Chip) (v : Half) (q : List XEntry) (s : State) :
    xConfirm c v (setPendx q s) = setPendx q (xConfirm c v s) := by
  have hf : busFailing (setPendx q s) = busFailing s := rfl
  have hp : portWord c (setPendx q s) = portWord c s := rfl
  unfold xConfirm busRead16
  rw [hf, hp, busAfter_setPendx]
  cases busFailing s
  · by_cases h : portWord c s = v
    · simp only [Bool.false_eq_true, if_false, ne_eq, h, not_true_eq_false, mapWord_setPendx]; rfl
    · simp only [Bool.false_eq_true, if_false, ne_eq, h, not_false_eq_true, if_true]; rfl
  · rfl

/-! ### The confirm phases, with no latency -/

theorem gConfirm_now (l : Line) (rise : Bool) (s : State) :
    (gConfirm l rise s).block.now = s.block.now := by
  rcases gConfirm_cases l rise s with ⟨_, h⟩ | ⟨_, _, h⟩ | ⟨_, _, h⟩ <;> rw [h]
  · rw [setLed_block, mapReleased_sameButRegs l s]
  · rw [setLed_block, mapPressed_sameButRegs l s]

theorem xConfirm_now (c : Chip) (v : Half) (s : State) :
    (xConfirm c v s).block.now = s.block.now := by
  rcases xConfirm_cases c v s with ⟨_, h⟩ | ⟨_, _, h⟩ | ⟨_, _, h⟩ <;> rw [h]
  · simp
  · simp
  · rw [setLed_block, mapWord_sameButRegs c _ _]; simp

/-- The due entries at the head are taken off the store and confirmed in order (R65, R79). -/
theorem confirmPhaseG_exact (q : List GEntry) (s : State) (hq : s.block.pendg = q)
    (hL : s.build.confirmLatencyMax = 0) :
    confirmPhaseG q s = (q.takeWhile (fun e => e.due ≤ s.block.now)).foldl
      (fun u e => gConfirm e.line e.rise u) (setPendg (q.dropWhile (fun e => e.due ≤ s.block.now)) s) := by
  induction q generalizing s with
  | nil => show s = setPendg [] s; rw [← hq]; rfl
  | cons e rest ih =>
    unfold confirmPhaseG
    rw [popsNow_exact hL, afterPopChoice_exact hL]
    by_cases h : e.due ≤ s.block.now
    · have hn : (gConfirm e.line e.rise (setPendg rest s)).block.now = s.block.now := gConfirm_now _ _ _
      simp only [h, decide_true, if_true, List.takeWhile_cons, List.dropWhile_cons, List.foldl_cons]
      rw [ih _ (by simp) (by simpa using hL), hn, gConfirm_setPendg, gConfirm_setPendg]
      rfl
    · simp only [h, decide_false, Bool.false_eq_true, if_false, List.takeWhile_cons, List.dropWhile_cons,
        List.foldl_nil]
      rw [← hq]; rfl

/-- The same in the I2C variant (R80). -/
theorem confirmPhaseX_exact (q : List XEntry) (s : State) (hq : s.block.pendx = q)
    (hL : s.build.confirmLatencyMax = 0) :
    confirmPhaseX q s = (q.takeWhile (fun e => e.due ≤ s.block.now)).foldl
      (fun u e => xConfirm e.chip e.snap u) (setPendx (q.dropWhile (fun e => e.due ≤ s.block.now)) s) := by
  induction q generalizing s with
  | nil => show s = setPendx [] s; rw [← hq]; rfl
  | cons e rest ih =>
    unfold confirmPhaseX
    rw [popsNow_exact hL, afterPopChoice_exact hL]
    by_cases h : e.due ≤ s.block.now
    · have hn : (xConfirm e.chip e.snap (setPendx rest s)).block.now = s.block.now := xConfirm_now _ _ _
      simp only [h, decide_true, if_true, List.takeWhile_cons, List.dropWhile_cons, List.foldl_cons]
      rw [ih _ (by simp) (by simpa using hL), hn, xConfirm_setPendx, xConfirm_setPendx]
      rfl
    · simp only [h, decide_false, Bool.false_eq_true, if_false, List.takeWhile_cons, List.dropWhile_cons,
        List.foldl_nil]
      rw [← hq]; rfl

/-! ### The confirm phases, with any latency window -/

theorem afterPopChoice_setPendg (due : Nat) (q : List GEntry) (s : State) :
    afterPopChoice due (setPendg q s) = setPendg q (afterPopChoice due s) := by
  unfold afterPopChoice
  rw [setPendg_block, setPendg_build]
  split <;> rfl

theorem afterPopChoice_setPendx (due : Nat) (q : List XEntry) (s : State) :
    afterPopChoice due (setPendx q s) = setPendx q (afterPopChoice due s) := by
  unfold afterPopChoice
  rw [setPendx_block, setPendx_build]
  split <;> rfl

/-- With a latency window the entries taken off the store and confirmed are its first k: all of them due, and every
leading one at the end of its window among them; the question put for each of them, and for the one left at the
head, may use a free value (R65 corner case (d)). -/
theorem confirmPhaseG_prefix (q : List GEntry) (s : State) (hq : s.block.pendg = q) :
    ∃ k, (q.takeWhile (fun e => e.due + s.build.confirmLatencyMax ≤ s.block.now)).length ≤ k ∧
      k ≤ (q.takeWhile (fun e => e.due ≤ s.block.now)).length ∧
      confirmPhaseG q s = (q.drop k).head?.elim id (fun e => afterPopChoice e.due)
        ((q.take k).foldl (fun u e => gConfirm e.line e.rise (afterPopChoice e.due u)) (setPendg (q.drop k) s)) := by
  induction q generalizing s with
  | nil => exact ⟨0, Nat.le_refl _, Nat.le_refl _, show s = setPendg [] s by rw [← hq]; rfl⟩
  | cons e rest ih =>
    unfold confirmPhaseG
    cases hp : popsNow e.due s
    · have hl : ¬ e.due + s.build.confirmLatencyMax ≤ s.block.now := by
        rcases not_popsNow hp with h | h <;> omega
      refine ⟨0, by simp [hl], Nat.zero_le _, ?_⟩
      have hs : setPendg (e :: rest) s = s := by rw [← hq]; rfl
      simp [hs]
    · have hd := popsNow_due hp
      obtain ⟨k, hlo, hhi, hk⟩ := ih (gConfirm e.line e.rise (setPendg rest (afterPopChoice e.due s))) (by simp)
      have hb : (gConfirm e.line e.rise (setPendg rest (afterPopChoice e.due s))).build = s.build := by simp
      have hn : (gConfirm e.line e.rise (setPendg rest (afterPopChoice e.due s))).block.now = s.block.now := by
        rw [gConfirm_now]; simp
      rw [hb, hn] at hlo
      rw [hn] at hhi
      refine ⟨k + 1, ?_, by simpa [List.takeWhile_cons, hd] using hhi, ?_⟩
      · by_cases hl : e.due + s.build.confirmLatencyMax ≤ s.block.now
        · simpa [List.takeWhile_cons, hl] using hlo
        · simp [hl]
      · rw [if_pos rfl, hk, ← gConfirm_setPendg]
        simp only [List.take_succ_cons, List.drop_succ_cons, List.foldl_cons, afterPopChoice_setPendg]
        rfl

/-- The same in the I2C variant (R80). -/
theorem confirmPhaseX_prefix (q : List XEntry) (s : State) (hq : s.block.pendx = q) :
    ∃ k, (q.takeWhile (fun e => e.due + s.build.confirmLatencyMax ≤ s.block.now)).length ≤ k ∧
      k ≤ (q.takeWhile (fun e => e.due ≤ s.block.now)).length ∧
      confirmPhaseX q s = (q.drop k).head?.elim id (fun e => afterPopChoice e.due)
        ((q.take k).foldl (fun u e => xConfirm e.chip e.snap (afterPopChoice e.due u)) (setPendx (q.drop k) s)) := by
  induction q generalizing s with
  | nil => exact ⟨0, Nat.le_refl _, Nat.le_refl _, show s = setPendx [] s by rw [← hq]; rfl⟩
  | cons e rest ih =>
    unfold confirmPhaseX
    cases hp : popsNow e.due s
    · have hl : ¬ e.due + s.build.confirmLatencyMax ≤ s.block.now := by
        rcases not_popsNow hp with h | h <;> omega
      refine ⟨0, by simp [hl], Nat.zero_le _, ?_⟩
      have hs : setPendx (e :: rest) s = s := by rw [← hq]; rfl
      simp [hs]
    · have hd := popsNow_due hp
      obtain ⟨k, hlo, hhi, hk⟩ := ih (xConfirm e.chip e.snap (setPendx rest (afterPopChoice e.due s))) (by simp)
      have hb : (xConfirm e.chip e.snap (setPendx rest (afterPopChoice e.due s))).build = s.build := by simp
      have hn : (xConfirm e.chip e.snap (setPendx rest (afterPopChoice e.due s))).block.now = s.block.now := by
        rw [xConfirm_now]; simp
      rw [hb, hn] at hlo
      rw [hn] at hhi
      refine ⟨k + 1, ?_, by simpa [List.takeWhile_cons, hd] using hhi, ?_⟩
      · by_cases hl : e.due + s.build.confirmLatencyMax ≤ s.block.now
        · simpa [List.takeWhile_cons, hl] using hlo
        · simp [hl]
      · rw [if_pos rfl, hk, ← xConfirm_setPendx]
        simp only [List.take_succ_cons, List.drop_succ_cons, List.foldl_cons, afterPopChoice_setPendx]
        rfl

/-! ### The report phase -/

theorem isReportTick_iff (s : State) :
    isReportTick s = true ↔ 0 < s.block.now ∧ s.block.now % s.build.reportTicks = 0 := by
  simp [isReportTick]

/-- In the reference schedule the report phase is RTICK in a report tick and nothing in any other (R115). -/
theorem endTick_agent_report {s : State} (h : s.build.tornReports = false) :
    (endTick s).agent = if isReportTick s = true then (report s).agent else s.agent := by
  unfold endTick reportGoesOn
  split <;> simp [h]

end Sys2Proof.Machine
end

