-- ==== Sys2Proof/Tests/Slice0.lean ====
section
/-! SUPPORT. Sys2Proof/Tests/Slice0.lean: the model's own tests. Expected values are those of the spec's examples
and of its vectors S, V and P (spec/95_test_vectors.md); the source of each test stands in its comment. Last, one
theorem `witness_<statement>` per statement with hypotheses, showing states and operands that meet them. -/

namespace Sys2Proof.Tests

open Sys2Proof Sys2Proof.Machine

/-! ### Helpers -/

/-- The GPIO block in reset, the environment at rest. -/
def gpio0 : State := State.ofScript .gpio []

/-- The I2C block in reset, the environment at rest. -/
def i2c0 : State := State.ofScript .i2c []

/-- The block of `s` armed, at tick `n`. -/
def armedAt (n : Nat) (s : State) : State := setNow n (arm s)

/-- The reference build of `s` with other parameters. -/
def rebuild (f : Build → Build) (s : State) : State := { s with build := f s.build }

/-- What `f` reads in the state an outcome answers. -/
def seen {α : Type} (o : Host.Outcome State Fault Refusal) (f : State → α) : Option α :=
  match o with
  | .next t => some (f t)
  | _ => none

/-- The refusal an outcome answers. -/
def refusal (o : Host.Outcome State Fault Refusal) : Option Refusal :=
  match o with
  | .refused r => some r
  | _ => none

/-- The record of player `p`. -/
def record (p : Player) (s : State) : List Byte :=
  [recordByte p 0 s, recordByte p 1 s, recordByte p 2 s, recordByte p 3 s]

/-! ### Well-formedness: an ill-formed term for each check -/

theorem test_wf_refuses_adv_0 : (Instr.adv 0).wf = false := by decide
theorem test_wf_accepts_adv_1 : (Instr.adv 1).wf = true := by decide
theorem test_variant_refuses_pin_in_i2c : (Instr.pinL 4).variantOk (Build.reference .i2c) = false := by
  decide
theorem test_variant_refuses_port_in_gpio : (Instr.port 0 0xFFFB).variantOk (Build.reference .gpio) = false := by
  decide
theorem test_flag_refuses_9_in_gpio : (Instr.setbt0 0 9).flagOk (Build.reference .gpio) = false := by decide
theorem test_flag_refuses_9_in_gpio_set : (Instr.setbt1 1 9).flagOk (Build.reference .gpio) = false := by decide
theorem test_flag_accepts_8_in_gpio : (Instr.setbt1 0 8).flagOk (Build.reference .gpio) = true := by decide
theorem test_feed_refuses_class_I : Instr.tickG.feedOk .stimulus = false := by decide
theorem test_feed_admits_class_I_in_a_trace : Instr.tickG.feedOk .trace = true := by decide
/-- R54: "The table of rule R53 is well formed". -/
theorem test_reference_line_map_wf : lineMapWf (Build.reference .gpio).lineMap 9 = true := by decide
/-- A control on two lines. -/
theorem test_line_map_refuses_a_double :
    lineMapWf ((Build.reference .gpio).lineMap.set 26 (.btn 0 0)) 9 = false := by decide
/-- A control on no line. -/
theorem test_line_map_refuses_a_gap :
    lineMapWf ((Build.reference .gpio).lineMap.set 4 .reserved) 9 = false := by decide
/-- A flag the variant does not have. -/
theorem test_line_map_refuses_a_flag_above :
    lineMapWf ((Build.reference .gpio).lineMap.set 26 (.btn 0 9)) 9 = false := by decide
theorem test_build_refuses_one_address :
    Build.wf { Build.reference .i2c with expAddr := #v[0x20, 0x20] } = false := by decide
theorem test_build_reference_wf : ∀ b : Bool, (Build.reference (if b then .gpio else .i2c)).wf = true := by
  decide

/-! ### The operation table (R58) -/

theorem test_table_has_30_rows : opcodeTable.length = 30 := by decide
/-- No word matches two rows. -/
theorem test_rows_do_not_overlap :
    opcodeTable.Pairwise (fun r q => (r.pattern ^^^ q.pattern) &&& r.mask &&& q.mask ≠ 0) := by decide
theorem test_rows_have_their_op : ∀ r ∈ opcodeTable, fieldOp r.pattern = r.op := by decide

/-! ### Decoding: one word per operation, from the columns of R58 and the examples of R65 to R118 -/

/-- R117: `ADV 5001` is 0x00001389. -/
theorem test_decode_adv : decodeTableWord 32 0x00001389 = some (.adv 5001) := by decide
/-- The high eight bits of a count lie in `a`: 0x12 * 65536 + 0x3456. -/
theorem test_decode_adv_high : decodeTableWord 32 0x00123456 = some (.adv 1193046) := by decide
theorem test_decode_reset : decodeTableWord 32 0x01000000 = some .reset := by decide
theorem test_decode_pinL : decodeTableWord 32 0x10040000 = some (.pinL 4) := by decide
theorem test_decode_pinH : decodeTableWord 32 0x11040000 = some (.pinH 4) := by decide
theorem test_decode_gFall : decodeTableWord 32 0x12040000 = some (.gFall 4) := by decide
/-- The highest line, 28 = 0x1C. -/
theorem test_decode_gRise : decodeTableWord 32 0x131C0000 = some (.gRise 28) := by decide
theorem test_decode_gConfF : decodeTableWord 32 0x14040000 = some (.gConfF 4) := by decide
theorem test_decode_gConfR : decodeTableWord 32 0x15040000 = some (.gConfR 4) := by decide
theorem test_decode_tickG : decodeTableWord 32 0x16000000 = some .tickG := by decide
theorem test_decode_port : decodeTableWord 32 0x2000FFFB = some (.port 0 0xFFFB) := by decide
theorem test_decode_irq : decodeTableWord 32 0x21010000 = some (.irq 1) := by decide
theorem test_decode_xIrq : decodeTableWord 32 0x22010000 = some (.xIrq 1) := by decide
theorem test_decode_xConf : decodeTableWord 32 0x2301FFEF = some (.xConf 1 0xFFEF) := by decide
theorem test_decode_xInit : decodeTableWord 32 0x2401FFFF = some (.xInit 1) := by decide
theorem test_decode_busf : decodeTableWord 32 0x25000001 = some (.busf 1) := by decide
theorem test_decode_tickX : decodeTableWord 32 0x26000000 = some .tickX := by decide
theorem test_decode_setaxX : decodeTableWord 32 0x30000000 = some (.setaxX 0 .neg) := by decide
theorem test_decode_setaxY : decodeTableWord 32 0x310100FF = some (.setaxY 1 .pos) := by decide
theorem test_decode_setbt0 : decodeTableWord 32 0x32000009 = some (.setbt0 0 9) := by decide
theorem test_decode_setbt1 : decodeTableWord 32 0x33000008 = some (.setbt1 0 8) := by decide
theorem test_decode_mapw : decodeTableWord 32 0x34008013 = some (.mapw 0 0x8013) := by decide
theorem test_decode_led0 : decodeTableWord 32 0x35000000 = some .led0 := by decide
theorem test_decode_led1 : decodeTableWord 32 0x36000000 = some .led1 := by decide
theorem test_decode_maplR : decodeTableWord 32 0x37010000 = some (.maplR 1) := by decide
theorem test_decode_maplP : decodeTableWord 32 0x38040000 = some (.maplP 4) := by decide
theorem test_decode_rdb : decodeTableWord 32 0x40010003 = some (.rdb 1 3) := by decide
theorem test_decode_rdr : decodeTableWord 32 0x41010000 = some (.rdr 1) := by decide
theorem test_decode_rdy0 : decodeTableWord 32 0x42000000 = some .rdy0 := by decide
theorem test_decode_rdy1 : decodeTableWord 32 0x43000000 = some .rdy1 := by decide
theorem test_decode_rtick : decodeTableWord 32 0x44000000 = some .rtick := by decide

/-- The name under which a word is rejected. -/
def why (w : EventWord) : Option BadWord :=
  match decode w with
  | .ok _ => none
  | .error e => some e

/-- The invalid words of V8. -/
theorem test_invalid_words_of_V8 :
    why 0x101D0000 = some .lineRange ∧ why 0x00000000 = some .zeroTicks ∧ why 0x20020000 = some .chipRange ∧
    why 0x24010000 = some .initData ∧ why 0x30000001 = some .axisValue ∧ why 0x3200000C = some .flagRange ∧
    why 0x40000004 = some .indexRange ∧ why 0x41000001 = some .nonzeroField ∧ why 0x02000000 = some .reservedOp ∧
    why 0xFF000000 = some .reservedOp := by decide
/-- R59: a player above 1; a field shown as 0. -/
theorem test_invalid_words_of_R59 :
    why 0x30020000 = some .playerRange ∧ why 0x10040001 = some .nonzeroField ∧ why 0x16010000 = some .nonzeroField ∧
    why 0x25010000 = some .nonzeroField := by decide

/-- The two words V8 refuses in one variant only, and a class I word in a stimulus file. -/
theorem test_refused_words_of_V8 :
    refusal (step { i2c0 with script := [0x10040000] }) = some (.wrongVariant 0x10040000) ∧
    refusal (step { gpio0 with script := [0x32000009], feed := .trace }) = some (.flagAboveNflags 0x32000009) ∧
    refusal (step { i2c0 with script := [0x2401FFFF] }) = some (.internalWord 0x2401FFFF) ∧
    refusal (step { gpio0 with script := [0xFF000000] }) = some (.invalidWord 0xFF000000 .reservedOp) := by decide

/-! ### One step of each operation -/

/-- P1 line 2: `ADV 1` from reset executes tick 0: armed, `NOW` = 1. -/
theorem test_adv_1 :
    seen (exec (.adv 1) gpio0) (fun t => (t.block.now, t.block.armed, t.block.pinq)) =
      some (1, true, Vector.replicate 29 true) := by decide
/-- P4 lines 2 to 4: the event raised after arming is served in the first of three ticks. -/
theorem test_adv_3 :
    seen (exec (.adv 3) (armedAt 1 (after (.port 0 0xFFFB) i2c0)))
      (fun t => (t.block.now, t.block.pendx, t.env.xirq)) =
      some (4, [⟨0, 0xFFFB, 5001⟩], #v[false, false]) := by decide

/-- R118: everything back to R29, the lines as they are. -/
theorem test_reset :
    seen (exec .reset (writePin 4 false (setLed true (writeAy 0 .pos (writeBt 1 8 true
      (setBuserr (setOvf (setPendg [⟨4, false, 9⟩] (armedAt 7 gpio0)))))))))
      (fun t => (t.block, t.env.pin[4], record 0 t)) =
      some (Block.reset, false, [0x80, 0x80, 0x00, 0x00]) := by decide

/-- R73. -/
theorem test_pinL : seen (exec (.pinL 4) gpio0) (fun t => t.env.pin.toList.count false) = some 1 ∧
    seen (exec (.pinL 4) gpio0) (pinLevel 4) = some false := by decide
/-- R74. -/
theorem test_pinH : seen (exec (.pinH 4) (writePin 5 false (writePin 4 false gpio0)))
    (fun t => (pinLevel 4 t, pinLevel 5 t)) = some (true, false) := by decide

/-- R68: `NOW = 1`, G.FALL 4 appends `{4, FALL, 5001}`. -/
theorem test_gFall : seen (exec (.gFall 4) (armedAt 1 gpio0)) (fun t => t.block.pendg) =
    some [⟨4, false, 5001⟩] := by decide
/-- V6: with `PENDING_CAP` = 1 a second entry is dropped and `OVF` set. -/
theorem test_gFall_full :
    seen (exec (.gFall 5) (setPendg [⟨4, false, 5010⟩] (rebuild ({ · with pendingCap := some 1 }) gpio0)))
      (fun t => (t.block.pendg, t.block.ovf)) = some ([⟨4, false, 5010⟩], true) := by decide
/-- R69: `NOW = 2001`, G.RISE 4 appends `{4, RISE, 7001}`; the FALL entry stays (P2). -/
theorem test_gRise : seen (exec (.gRise 4) (setPendg [⟨4, false, 5001⟩] (armedAt 2001 gpio0)))
    (fun t => t.block.pendg) = some [⟨4, false, 5001⟩, ⟨4, true, 7001⟩] := by decide

/-- V1 FALL, level 0: confirmed, pressed (R71's example). -/
theorem test_gConfF : seen (exec (.gConfF 4) (writePin 4 false gpio0)) (fun t => (record 0 t, t.block.led)) =
    some ([0x80, 0x80, 0x01, 0x00], true) := by decide
/-- V1 FALL, level 1: stale. -/
theorem test_gConfF_stale : seen (exec (.gConfF 4) gpio0) (fun t => decide (t = gpio0)) = some true := by decide
/-- V1 RISE, level 1: confirmed, released (R72's example). -/
theorem test_gConfR : seen (exec (.gConfR 4) (setLed true (writeBt 0 0 true gpio0)))
    (fun t => (record 0 t, t.block.led)) = some ([0x80, 0x80, 0x00, 0x00], false) := by decide
/-- V1 RISE, level 0: stale. -/
theorem test_gConfR_stale : seen (exec (.gConfR 4) (writePin 4 false (setLed true gpio0)))
    (fun t => t.block.led) = some true := by decide

/-- V6: tick 0 with `pin[4] = 0`: a line low at arming gives no edge. -/
theorem test_tickG_arms : seen (exec .tickG (writePin 4 false gpio0))
    (fun t => (t.block.armed, pinqLevel 4 t, t.block.pendg, t.block.now)) = some (true, false, [], 1) := by decide
/-- V6: UP and DOWN of player 0 both confirmed in tick 5010: the last write wins, `AY[0]` = 255; line 5 falls in
the same tick. -/
theorem test_tickG_confirms_and_detects :
    seen (exec .tickG (setPendg [⟨0, false, 5010⟩, ⟨1, false, 5010⟩, ⟨2, false, 5011⟩] (writePin 5 false
      (writePinq 1 false (writePinq 0 false (writePin 1 false (writePin 0 false (armedAt 5010 gpio0))))))))
      (fun t => (record 0 t, t.block.pendg, t.block.led, t.block.now)) =
      some ([0x80, 0xFF, 0x00, 0x00], [⟨2, false, 5011⟩, ⟨5, false, 10010⟩], true, 5011) := by decide +kernel

/-- R86. -/
theorem test_port : seen (exec (.port 0 0xFFFB) i2c0) (fun t => (t.env.port, t.env.xirq)) =
    some (#v[0xFFFB, 0xFFFF], #v[true, false]) := by decide
/-- R86: the value the port already has raises no event. -/
theorem test_port_same : seen (exec (.port 1 0xFFFF) i2c0) (fun t => t.env.xirq) = some #v[false, false] := by decide
/-- R84. -/
theorem test_irq : seen (exec (.irq 1) i2c0) (fun t => (t.env.port, t.env.xirq)) =
    some (#v[0xFFFF, 0xFFFF], #v[false, true]) := by decide

/-- R83: `NOW = 1`, `port[0] = 0xFFFB`, X.IRQ 0 appends `{0, 0xFFFB, 5001}`. -/
theorem test_xIrq : seen (exec (.xIrq 0) (armedAt 1 (writePort 0 0xFFFB i2c0))) (fun t => t.block.pendx) =
    some [⟨0, 0xFFFB, 5001⟩] := by decide
/-- R83, R130: a failed first read with a full store is BUSFAIL only. -/
theorem test_xIrq_fail :
    seen (exec (.xIrq 1) (writeBusf 1 (rebuild ({ · with pendingCap := some 0 }) i2c0)))
      (fun t => (t.block.pendx, t.block.buserr, t.block.ovf, t.env.busf)) = some ([], true, false, 0) := by decide

/-- V3, last row but two: r = 0x7FEC gives `80 FF 01 08`, and the indicator is on. -/
theorem test_xConf : seen (exec (.xConf 0 0x7FEC) (writePort 0 0x7FEC i2c0))
    (fun t => (record 0 t, record 1 t, t.block.led)) =
    some ([0x80, 0xFF, 0x01, 0x08], [0x80, 0x80, 0x00, 0x00], true) := by decide
/-- P4 line 10: second snapshot 0x7FEE against 0x7FEC, STALE. -/
theorem test_xConf_stale : seen (exec (.xConf 0 0x7FEC) (writePort 0 0x7FEE (setLed true i2c0)))
    (fun t => (record 0 t, t.block.led)) = some ([0x80, 0x80, 0x00, 0x00], true) := by decide

/-- R82: the write changes no block state. -/
theorem test_xInit : seen (exec (.xInit 1) i2c0) (fun t => decide (t = i2c0)) = some true := by decide
/-- R82: a failed write sets `BUSERR`. -/
theorem test_xInit_fail : seen (exec (.xInit 1) (writeBusf 2 i2c0)) (fun t => (t.block.buserr, t.env.busf)) =
    some (true, 1) := by decide
/-- R92. -/
theorem test_busf : seen (exec (.busf 1) i2c0) (fun t => t.env.busf) = some 1 := by decide

/-- R80: the first tick initialises, drops the events and arms. -/
theorem test_tickX_boots : seen (exec .tickX (writeBusf 1 (writeXirq 1 true i2c0)))
    (fun t => (t.block.armed, t.block.now, t.env.xirq, t.block.buserr, t.env.busf)) =
    some (true, 1, #v[false, false], true, 0) := by decide
/-- P5 line 8, tick 10002, with an event of chip 0 in the same tick. -/
theorem test_tickX_confirms_and_serves :
    seen (exec .tickX (setPendx [⟨1, 0xFFEF, 10002⟩] (writeXirq 0 true (writePort 1 0xFFEF (armedAt 10002 i2c0)))))
      (fun t => (record 1 t, t.block.pendx, t.block.led, t.env.xirq)) =
      some ([0x80, 0x80, 0x01, 0x00], [⟨0, 0xFFFF, 15002⟩], true, #v[false, false]) := by decide

/-- R97: `SETAX.X 0, 0` makes `AX[0] = 0`. -/
theorem test_setaxX : seen (exec (.setaxX 0 .neg) gpio0) (fun t => (record 0 t, record 1 t)) =
    some ([0x00, 0x80, 0x00, 0x00], [0x80, 0x80, 0x00, 0x00]) := by decide
/-- R98: `SETAX.Y 1, 255` makes `AY[1] = 255`. -/
theorem test_setaxY : seen (exec (.setaxY 1 .pos) gpio0) (fun t => (record 0 t, record 1 t)) =
    some ([0x80, 0x80, 0x00, 0x00], [0x80, 0xFF, 0x00, 0x00]) := by decide
/-- R99: only the one flag changes. -/
theorem test_setbt0 : seen (exec (.setbt0 0 0) (writeBt 0 7 true (writeBt 0 0 true gpio0))) (record 0) =
    some [0x80, 0x80, 0x80, 0x00] := by decide
/-- R100 and V5: the `start` flag of a GPIO build, flag 8. -/
theorem test_setbt1 : seen (exec (.setbt1 0 8) gpio0) (record 0) = some [0x80, 0x80, 0x00, 0x01] := by decide
/-- V3, r = 0x7FEC: w = 0x8013; down over up. -/
theorem test_mapw : seen (exec (.mapw 0 0x8013) (writeBt 0 3 true i2c0)) (record 0) =
    some [0x80, 0xFF, 0x01, 0x08] := by decide
/-- V3, r = 0x0000: right over left, down over up, all twelve flags. -/
theorem test_mapw_all : seen (exec (.mapw 1 0xFFFF) i2c0) (record 1) = some [0xFF, 0xFF, 0xFF, 0x0F] := by decide
theorem test_led0 : seen (exec .led0 (setLed true gpio0)) (fun t => t.block.led) = some false := by decide
theorem test_led1 : seen (exec .led1 gpio0) (fun t => t.block.led) = some true := by decide
/-- R103: `MAPL.R 1` performs SETAX.Y 0, 128. -/
theorem test_maplR : seen (exec (.maplR 1) (writeAy 0 .pos gpio0)) (record 0) = some [0x80, 0x80, 0x00, 0x00] := by
  decide
/-- R102: `MAPL.P 4` performs SETBT.1 0, 0. -/
theorem test_maplP : seen (exec (.maplP 4) gpio0) (record 0) = some [0x80, 0x80, 0x01, 0x00] := by decide
/-- V2: a line of player 1, LEFT; a reserved line. -/
theorem test_maplP_others : seen (exec (.maplP 15) gpio0) (record 1) = some [0x00, 0x80, 0x00, 0x00] ∧
    seen (exec (.maplP 26) gpio0) (fun t => decide (t = gpio0)) = some true := by decide
/-- V5: `RDB 1, 2` reads address 6. -/
theorem test_rdb : seen (exec (.rdb 1 2) (writeBt 1 0 true gpio0)) (fun t => t.returned) = some [0x01] ∧
    memRead 6 (writeBt 1 0 true gpio0) = some 0x01 := by decide
/-- R111: after reset `RDR 0` returns (0x80, 0x80, 0x00, 0x00). -/
theorem test_rdr : seen (exec (.rdr 0) gpio0) (fun t => t.returned) = some [0x80, 0x80, 0x00, 0x00] := by decide
theorem test_rdy0 : seen (exec .rdy0 (writeReady true gpio0)) (fun t => t.env.chReady) = some false := by decide
theorem test_rdy1 : seen (exec .rdy1 gpio0) (fun t => t.env.chReady) = some true := by decide
/-- V7: channel ready, reset state. -/
theorem test_rtick : seen (exec .rtick (writeReady true gpio0)) (fun t => (t.agent.outbuf.toList, t.agent.txcount)) =
    some ([0x80, 0x80, 0x00, 0x00, 0x80, 0x80, 0x00, 0x00], 1) := by decide
/-- V7: channel not ready. -/
theorem test_rtick_not_ready : seen (exec .rtick gpio0) (fun t => decide (t = gpio0)) = some true := by decide
/-- V7, first column: tick 100 000 is a report tick, and its confirm phase runs first; P6 line 11. -/
theorem test_report_tick :
    seen (exec .tickX (setPendx [⟨0, 0xFFEA, 100000⟩] (writePort 0 0xFFEA (writeReady true (armedAt 100000 i2c0)))))
      (fun t => (t.agent.outbuf.toList, t.agent.txcount, t.block.now)) =
      some ([0x00, 0x00, 0x01, 0x00, 0x80, 0x80, 0x00, 0x00], 1, 100001) := by decide

/-! ### The script text (R63): lines of P1, P4 and P6 -/

theorem test_lines :
    parseLine (Build.reference .gpio) "PIN.L 4".toList = some (.word 0x10040000) ∧
    parseLine (Build.reference .gpio) "ADV 5001   # P1 line 4".toList = some (.word 0x00001389) ∧
    parseLine (Build.reference .i2c) "PORT 0, 0x7FEC".toList = some (.word 0x20007FEC) ∧
    parseLine (Build.reference .i2c) "X.INIT 1".toList = some (.word 0x2401FFFF) ∧
    parseLine (Build.reference .i2c) "# a comment".toList = some .blank ∧
    parseLine (Build.reference .i2c) "PORT 2, 0".toList = none := by decide
theorem test_pseudo_operations :
    parseLine (Build.reference .gpio) "WAITMS 5".toList = some (.word 0x00001388) ∧
    parseLine (Build.reference .gpio) "EXPECT 0, 0x80, 0x80, 0x01, 0x00".toList =
      some (.expect 0 [0x80, 0x80, 0x01, 0x00]) := by decide

/-! ### The host's entry -/

/-- A class I word of the other variant, placed by `withFetchWord` in the reset state, is the next step. -/
theorem test_withFetchWord :
    seen (step (State.reset.withFetchWord 32 0x34008013)) (record 0) = some [0x80, 0xFF, 0x01, 0x08] ∧
    seen (step (State.reset.withFetchWord 32 0x3300000B)) (record 0) = some [0x80, 0x80, 0x00, 0x08] := by decide
/-- With nothing placed, the first step from reset is tick 0. -/
theorem test_free_running : seen (step State.reset) (fun t => (t.block.armed, t.block.now)) = some (true, 1) := by
  decide

/-! ### Witnesses: states and operands that meet the hypotheses of each statement -/

/-- An outcome that answers a next state. -/
theorem next_of_seen {o : Host.Outcome State Fault Refusal} (h : seen o (fun _ => ()) = some ()) :
    ∃ t, o = .next t := by
  cases o with
  | next t => exact ⟨t, rfl⟩
  | fault r => exact nomatch h
  | refused r => exact nomatch h

/-- A build with a debounce delay of 2 ticks, 10 ticks between reports and room for one entry. -/
def small (s : State) : State :=
  rebuild ({ · with tickHz := 1000, debounceMs := 2, reportMs := 10, pendingCap := some 1 }) s

theorem witness_AdvanceIsRepeatedTicks : (1 : BitVec 24) ≠ 0 ∧ (0xFFFFFF : BitVec 24) ≠ 0 ∧
    (0xFFFFFF : BitVec 24) ≠ 1 ∧ gpio0.build.variant = .gpio ∧ i2c0.build.variant = .i2c := by decide

theorem witness_SetAxisWritesOneRegister :
    (1 : Player) ≠ 0 ∧ readAx 1 gpio0 = AxisLevel.mid.toByte ∧ readAy 0 gpio0 = AxisLevel.mid.toByte ∧
    (7 : Nat) ≠ recordAddr 1 0 ∧ (0 : Nat) ≠ recordAddr 0 1 ∧ ((0x31 : Byte) = 0x30 ∨ (0x31 : Byte) = 0x31) ∧
    2 ≤ (2 : Byte).toNat ∧ ((254 : Half) ≠ 0 ∧ (254 : Half) ≠ 128 ∧ (254 : Half) ≠ 255) := by decide

theorem witness_SetButtonWritesOneFlag :
    ((0, 8) : Player × Flag) ≠ (0, 7) ∧ ((1, 11) : Player × Flag) ≠ (0, 11) ∧
    (3 : Nat) ≠ recordAddr 0 (if (7 : Flag).val < 8 then 2 else 3) ∧
    (2 : Nat) ≠ recordAddr 0 (if (8 : Flag).val < 8 then 2 else 3) := by decide

theorem witness_MapWordDecodesTheWholeWord : (1 : Player) ≠ 0 ∧ ∀ i, (3 : Nat) ≠ recordAddr 1 i := by decide

/-- One line for each clause. -/
theorem witness_MapLineWritesWhatTheLineNames :
    lineMapAt 0 gpio0 = .dir 0 .up ∧ lineMapAt 14 gpio0 = .dir 1 .down ∧ lineMapAt 2 gpio0 = .dir 0 .left ∧
    lineMapAt 16 gpio0 = .dir 1 .right ∧ lineMapAt 25 gpio0 = .btn 1 8 ∧ lineMapAt 28 gpio0 = .reserved := by decide

theorem witness_WritesAreIdempotent : ∃ t, exec (.mapw 1 0x8013) i2c0 = .next t := ⟨_, rfl⟩

theorem witness_ReferenceLineMapIsTheFormula :
    26 ≤ (26 : Line).val ∧ (25 : Line).val < 26 ∧ (25 : Line).val / 13 = (1 : Player).val ∧
    (13 : Line).val % 13 = 0 ∧ (14 : Line).val % 13 = 1 ∧ (15 : Line).val % 13 = 2 ∧ (16 : Line).val % 13 = 3 ∧
    (17 : Line).val % 13 = (0 : Flag).val + 4 ∧ (25 : Line).val % 13 = (8 : Flag).val + 4 := by decide

theorem witness_LineMapCheckIsUniqueness :
    (rebuild (fun b => { b with lineMap := b.lineMap.set 4 .reserved }) gpio0).build.variant = .gpio ∧
    lineMapWf (rebuild (fun b => { b with lineMap := b.lineMap.set 4 .reserved }) gpio0).build.lineMap 9 = false ∧
    (∃ l : Line, gpio0.build.lineMap[l] = .btn 1 8) ∧ (8 : Flag).val < 9 := by decide

theorem witness_PinDrivesOneLine : (28 : Line) ≠ 0 ∧ pinLevel 28 gpio0 = true ∧
    pinLevel 0 (writePin 0 false gpio0) = false := by decide

/-- Room in an unbounded and in a finite store, and a full store. -/
theorem witness_EdgeSchedulesOneConfirmation :
    (∀ c, gpio0.build.pendingCap = some c → gpio0.block.pendg.length < c) ∧
    (∀ c, (small gpio0).build.pendingCap = some c → (small gpio0).block.pendg.length < c) ∧
    ∀ c, (small (setPendg [⟨4, false, 2⟩] gpio0)).build.pendingCap = some c →
      c ≤ (small (setPendg [⟨4, false, 2⟩] gpio0)).block.pendg.length := by
  refine ⟨(fun c h => nomatch h), fun c h => ?_, fun c h => ?_⟩
  · have h : some 1 = some c := h
    cases h
    decide
  · have h : some 1 = some c := h
    cases h
    decide

theorem witness_ConfirmationDecidesByTheLevel : pinLevel 4 gpio0 = true ∧
    pinLevel 4 (writePin 4 false gpio0) = false := by decide

theorem witness_FirstTickArmsTheDetector : (writePin 4 false gpio0).block.armed = false := by decide

/-- An armed block with an entry due now, an entry due later and an edge. -/
def busyG : State :=
  setPendg [⟨4, false, 7⟩, ⟨5, true, 8⟩] (writePin 6 false (writePin 4 false (writePinq 4 false (armedAt 7 gpio0))))

/-- A full store whose one entry is due, and an edge, in a report tick. -/
def fullG : State :=
  small (setPendg [⟨4, false, 10⟩] (writePin 6 false (writeReady true (armedAt 10 gpio0))))

/-- Entries due 2 ticks ago and now, with a latency window of 2 ticks, and one still to come. -/
def lateG : State :=
  rebuild ({ · with confirmLatencyMax := 2 })
    (setPendg [⟨4, false, 5⟩, ⟨5, true, 7⟩, ⟨6, true, 8⟩] (armedAt 7 gpio0))

/-- An unbounded store, a full one with an entry due in a report tick, and a latency window with one entry at its
end and one inside it. -/
theorem witness_TickGConfirmsThenDetects :
    (busyG.block.armed = true ∧ busyG.build.confirmLatencyMax = 0 ∧ busyG.build.pendingCap = none ∧
      busyG.build.tornReports = false ∧
      busyG.block.pendg.takeWhile (fun e => e.due ≤ busyG.block.now) = [⟨4, false, 7⟩] ∧
      (List.finRange 29).filter (fun l => pinLevel l busyG != pinqLevel l busyG) = [6]) ∧
    (fullG.block.armed = true ∧ fullG.build.confirmLatencyMax = 0 ∧ fullG.build.pendingCap = some 1 ∧
      fullG.block.pendg.takeWhile (fun e => e.due ≤ fullG.block.now) = [⟨4, false, 10⟩] ∧
      0 < fullG.block.now ∧ fullG.block.now % fullG.build.reportTicks = 0) ∧
    (lateG.block.armed = true ∧ lateG.build.confirmLatencyMax = 2 ∧
      (lateG.block.pendg.takeWhile (fun e => e.due + lateG.build.confirmLatencyMax ≤ lateG.block.now)).length = 1 ∧
      (lateG.block.pendg.takeWhile (fun e => e.due ≤ lateG.block.now)).length = 2) := by decide

theorem witness_StaleTickChangesNoRegister :
    (writePin 4 true busyG).block.armed = true ∧
    (∀ e ∈ (writePin 4 true busyG).block.pendg, e.due ≤ (writePin 4 true busyG).block.now →
      pinLevel e.line (writePin 4 true busyG) ≠ e.rise) ∧
    (setPendx [⟨0, 0xFFFB, 1⟩] (armedAt 1 i2c0)).block.armed = true ∧
    ∀ e ∈ (setPendx [⟨0, 0xFFFB, 1⟩] (armedAt 1 i2c0)).block.pendx,
      e.due ≤ (setPendx [⟨0, 0xFFFB, 1⟩] (armedAt 1 i2c0)).block.now →
      portWord e.chip (setPendx [⟨0, 0xFFFB, 1⟩] (armedAt 1 i2c0)) ≠ e.snap := by decide

/-- One edge, of the last line, in a quiet armed block. -/
def edge : State := small (writePin 28 false (armedAt 1 gpio0))

theorem witness_StableEdgeIsConfirmedOnTime :
    edge.build.variant = .gpio ∧ edge.block.armed = true ∧ edge.build.confirmLatencyMax = 0 ∧
    0 < edge.build.debounceTicks ∧ edge.build.debounceTicks + 1 < 2 ^ 24 ∧ edge.build.pendingCap ≠ some 0 ∧
    edge.block.pendg = [] ∧ pinLevel 28 edge ≠ pinqLevel 28 edge ∧
    (∀ m : Line, m ≠ 28 → pinLevel m edge = pinqLevel m edge) ∧ 0 < 1 ∧ 2 ≤ edge.build.debounceTicks := by decide

theorem witness_PortAndIrqRaiseEvents : (1 : Chip) ≠ 0 ∧ (armedAt 1 i2c0).block.armed = true ∧
    (armedAt 1 i2c0).build.pendingCap = none ∧ (armedAt 1 i2c0).build.freeBus = false ∧
    (armedAt 1 i2c0).env.busf = 0 := by decide

theorem witness_BusFailsWhileBusfCounts :
    0 < (writeBusf 1 i2c0).env.busf ∧ i2c0.env.busf = 0 ∧ i2c0.build.freeBus = false := by decide

theorem witness_InitWritesAllOnes : (busWrite16 1 0xFFFF i2c0).1 = true ∧
    (busWrite16 1 0xFFFF (writeBusf 1 i2c0)).1 = false := by decide

/-- A failed read; a read with room, and one with a full store. -/
theorem witness_InterruptSchedulesTheSnapshot :
    (busRead16 0 (writeBusf 1 i2c0)).1 = none ∧ (busRead16 1 i2c0).1 = some 0xFFFF ∧
    (∀ n, i2c0.build.pendingCap = some n → i2c0.block.pendx.length < n) ∧
    ∀ n, (small (setPendx [⟨0, 0xFFFB, 2⟩] i2c0)).build.pendingCap = some n →
      n ≤ (small (setPendx [⟨0, 0xFFFB, 2⟩] i2c0)).block.pendx.length := by
  refine ⟨by decide, by decide, (fun n h => nomatch h), fun n h => ?_⟩
  have h : some 1 = some n := h
  cases h
  decide

theorem witness_ComparatorDecidesByTheSnapshots :
    (busRead16 1 (writeBusf 1 i2c0)).1 = none ∧ (busRead16 1 i2c0).1 = some 0xFFFF ∧
    (0xFFFF : Half) ≠ 0xFFFE ∧ (busRead16 0 (writePort 0 0xFFFE i2c0)).1 = some 0xFFFE := by decide

theorem witness_FirstTickBootsTheChips : (writeBusf 1 i2c0).block.armed = false ∧
    (writeBusf 1 i2c0).build.freeBus = false ∧ (rebuild ({ · with freeBus := true }) i2c0).block.armed = false := by
  decide

/-- An armed block with an entry due now and an event of chip 1. -/
def busyX : State := setPendx [⟨0, 0xFFFF, 7⟩, ⟨1, 0xFFFB, 8⟩] (writeXirq 1 true (armedAt 7 i2c0))

/-- A full store whose one entry is due, an event of each chip and a failing transaction, in a report tick. -/
def fullX : State :=
  small (setPendx [⟨0, 0xFFFB, 10⟩] (writeXirq 0 true (writeXirq 1 true (writeBusf 1 (writeReady true
    (armedAt 10 i2c0))))))

/-- Entries due 2 ticks ago and now, with a latency window of 2 ticks and a bus that may fail freely. -/
def lateX : State :=
  rebuild ({ · with confirmLatencyMax := 2, freeBus := true })
    (setPendx [⟨0, 0xFFFB, 5⟩, ⟨1, 0xFFFF, 7⟩] (armedAt 7 i2c0))

/-- A bus that works, one that fails the first transaction of a tick with a full store in a report tick, and one
that may fail freely with a latency window. -/
theorem witness_TickXConfirmsThenServes :
    (busyX.block.armed = true ∧ busyX.build.confirmLatencyMax = 0 ∧ busyX.build.pendingCap = none ∧
      busyX.build.freeBus = false ∧ busyX.env.busf = 0 ∧ busyX.build.tornReports = false ∧
      busyX.block.pendx.takeWhile (fun e => e.due ≤ busyX.block.now) = [⟨0, 0xFFFF, 7⟩] ∧
      (List.finRange 2).filter (fun d => xirqBit d busyX) = [1]) ∧
    (fullX.block.armed = true ∧ fullX.build.confirmLatencyMax = 0 ∧ fullX.build.pendingCap = some 1 ∧
      fullX.env.busf = 1 ∧ fullX.block.pendx.takeWhile (fun e => e.due ≤ fullX.block.now) = [⟨0, 0xFFFB, 10⟩] ∧
      0 < fullX.block.now ∧ fullX.block.now % fullX.build.reportTicks = 0) ∧
    (lateX.block.armed = true ∧ lateX.build.confirmLatencyMax = 2 ∧ lateX.build.freeBus = true ∧
      (lateX.block.pendx.takeWhile (fun e => e.due + lateX.build.confirmLatencyMax ≤ lateX.block.now)).length = 1 ∧
      (lateX.block.pendx.takeWhile (fun e => e.due ≤ lateX.block.now)).length = 2) := by decide

/-- One event, of chip 1, in a quiet armed block. -/
def event : State := small (writePort 1 0x7FEC (writeXirq 1 true (armedAt 1 i2c0)))

theorem witness_QuietPortIsDecodedOnTime :
    event.build.variant = .i2c ∧ event.block.armed = true ∧ event.build.confirmLatencyMax = 0 ∧
    0 < event.build.debounceTicks ∧ event.build.debounceTicks + 1 < 2 ^ 24 ∧ event.build.pendingCap ≠ some 0 ∧
    event.block.pendx = [] ∧ event.build.freeBus = false ∧ event.env.busf = 0 ∧ xirqBit 1 event = true ∧
    ∀ d : Chip, d ≠ 1 → xirqBit d event = false := by decide

theorem witness_ChipsAreIndependent : (1 : Chip) ≠ 0 ∧ (∃ t, exec (.xConf 0 0xFFFF) i2c0 = .next t) ∧
    ∃ s', exec (.port 1 0) i2c0 = .next s' := ⟨by decide, ⟨_, rfl⟩, ⟨_, rfl⟩⟩

theorem witness_RecordAddressesAreEight : (8 : Nat) ≤ 8 := by decide

/-- The last flag of byte 3 and the first padding bit, in each variant. -/
theorem witness_RecordHoldsTheRegisters :
    0 + 9 ≤ gpio0.build.variant.nflags ∧ gpio0.build.variant.nflags < 1 + 9 ∧
    3 + 9 ≤ i2c0.build.variant.nflags ∧ i2c0.build.variant.nflags < 4 + 9 := by decide

theorem witness_ReportSendsTheRecords : gpio0.build.tornReports = false ∧ gpio0.env.chReady = false ∧
    (writeReady true gpio0).env.chReady = true := by decide

/-- A window of two ADV words with RDY between them, one ADV of the whole window with the channel ready, and one
with the channel not ready. -/
theorem witness_AtMostOneReportPerWindow :
    ((small gpio0).build.tornReports = false ∧
      (∀ i ∈ [Instr.adv 4, .rdy1, .adv 6, .rdy0], i ≠ .reset ∧ i ≠ .rtick) ∧
      ([Instr.adv 4, .rdy1, .adv 6, .rdy0].foldl (fun u i => after i u) (small gpio0)).block.now ≤
        (small gpio0).block.now + (small gpio0).build.reportTicks) ∧
    ((∃ t, exec (.adv 10) fullG = .next t) ∧ fullG.env.chReady = true ∧ 0 < fullG.block.now ∧
      0 < (10 : BitVec 24).toNat ∧ (10 : BitVec 24).toNat = fullG.build.reportTicks ∧
      fullG.build.tornReports = false) ∧
    (small gpio0).env.chReady = false ∧ ∃ t, exec (.adv 10) (small gpio0) = .next t :=
  ⟨by decide +kernel, ⟨⟨_, rfl⟩, by decide⟩, by decide, ⟨_, rfl⟩⟩

/-- A report in progress in a build with the general schedule, and none with the channel not ready. -/
theorem witness_ReportReadsTrueBytes :
    (∃ t, exec .tickX (rebuild ({ · with tornReports := true })
      { i2c0 with agent := { Agent.reset with copyNext := some 7 } }) = .next t) ∧
    (rebuild ({ · with tornReports := true }) i2c0).env.chReady = false ∧
    (rebuild ({ · with tornReports := true }) i2c0).agent.copyNext = none := ⟨⟨_, rfl⟩, rfl, rfl⟩

/-- A report tick with the channel ready, one with it not ready, and another tick. -/
theorem witness_TicksReportOnReportTicks :
    (fullG.build.tornReports = false ∧ 0 < fullG.block.now ∧ fullG.block.now % fullG.build.reportTicks = 0 ∧
      fullG.env.chReady = true) ∧
    (writeReady false fullX).env.chReady = false ∧ (writeReady false fullX).build.tornReports = false ∧
    ¬(0 < busyX.block.now ∧ busyX.block.now % busyX.build.reportTicks = 0) ∧ busyX.build.tornReports = false := by
  decide

theorem witness_ReaderCannotInfluenceTheBlock :
    gpio0.build.tornReports = false ∧ (writeReady true gpio0).build = gpio0.build ∧
    (writeReady true gpio0).block = gpio0.block ∧ (writeReady true gpio0).choices = gpio0.choices ∧
    (writeReady true gpio0).env = { gpio0.env with chReady := (writeReady true gpio0).env.chReady } ∧
    ∃ t, exec .rtick gpio0 = .next t := ⟨rfl, rfl, rfl, rfl, rfl, ⟨_, rfl⟩⟩

theorem witness_OperationsLeaveBuildAndScript : (∃ t, exec .reset gpio0 = .next t) ∧
    (∀ p k, Instr.reset ≠ .rdb p k) ∧ ∀ p, Instr.reset ≠ .rdr p :=
  ⟨⟨_, rfl⟩, (fun _ _ h => nomatch h), fun _ h => nomatch h⟩

theorem witness_OnlyConfirmationsWriteTheRegisterFile : ∃ t, exec .rtick (writeReady true gpio0) = .next t :=
  ⟨_, rfl⟩

theorem witness_StatusFlagsAreSticky : Instr.tickX ≠ .reset ∧ (∃ t, exec .tickX (setBuserr (setOvf i2c0)) = .next t) ∧
    (setBuserr (setOvf i2c0)).block.buserr = true ∧ (setBuserr (setOvf i2c0)).block.ovf = true :=
  ⟨by decide, ⟨_, rfl⟩, rfl, rfl⟩

/-- Entries due in the very tick the operation leaves behind. -/
theorem witness_NoConfirmationIsCancelled :
    seen (exec .tickG busyG) (fun t => decide (⟨5, true, 8⟩ ∈ busyG.block.pendg ∧ t.block.now ≤ 8)) = some true ∧
    seen (exec .tickX busyX) (fun t => decide (⟨1, 0xFFFB, 8⟩ ∈ busyX.block.pendx ∧ t.block.now ≤ 8)) = some true := by
  decide +kernel

theorem witness_BusFailureIsTheOnlyOutcome : (busRead16 1 (writeBusf 1 i2c0)).1 = none := by decide

theorem witness_AxesStayInTheirDomain : AxesOk gpio0 ∧ ∃ t, step gpio0 = .next t :=
  ⟨by unfold AxesOk AxisOk; decide, next_of_seen (by decide)⟩

theorem witness_PaddingStaysZero : PaddingOk gpio0 ∧ ∃ t, step gpio0 = .next t :=
  ⟨by unfold PaddingOk; decide, next_of_seen (by decide)⟩

/-- A state with entries pending, in each variant. -/
theorem witness_ConfirmationsStayTimely :
    0 < edge.build.debounceTicks ∧ Timely (setPendg [⟨4, false, 2⟩, ⟨5, true, 3⟩] edge) ∧
    (∃ t, step (setPendg [⟨4, false, 2⟩, ⟨5, true, 3⟩] edge) = .next t) ∧
    Timely (setPendx [⟨0, 0xFFFE, 3⟩] event) ∧ ∃ t, step (setPendx [⟨0, 0xFFFE, 3⟩] event) = .next t := by
  refine ⟨by decide, ⟨⟨rfl, rfl⟩, by decide, ?_, ?_⟩, next_of_seen (by decide), ⟨rfl, by decide, ?_, ?_⟩,
    next_of_seen (by decide)⟩ <;> (unfold StoreTimely; decide)

/-- Entries of other lines pending, edges of UP and DOWN of player 1 in one tick; for the higher, line 14, no line
above it shares its register, for line 13 one does. -/
def crowd : State :=
  rebuild ({ · with tickHz := 1000, debounceMs := 3 })
    (setPendg [⟨4, false, 3⟩, ⟨13, true, 4⟩] (writePin 13 false (writePin 14 false (armedAt 1 gpio0))))

/-- What happens between the edge's tick and its confirmation: another line bounces, a record is read. -/
def between : List Instr := [.pinL 0, .adv 1, .pinH 0, .rdr 1, .rdb 0 2, .rdy1, .adv 1, .rdy0]

/-- The clause on `OVF` is met by an unbounded store, or (`edge`) by a finite one that is not full. -/
theorem witness_LastEdgeIsConfirmedAmongOthers :
    crowd.build.variant = .gpio ∧ crowd.block.armed = true ∧ crowd.build.confirmLatencyMax = 0 ∧
    0 < crowd.build.debounceTicks ∧ Timely crowd ∧ crowd.build.pendingCap = none ∧
    (pinLevel 14 crowd ≠ pinqLevel 14 crowd ∧ pinLevel 13 crowd ≠ pinqLevel 13 crowd ∧
      (∀ m : Line, 14 < m → sharesRegister (lineMapAt m crowd) (lineMapAt 14 crowd) = true →
        pinLevel m crowd = pinqLevel m crowd) ∧
      sharesRegister (lineMapAt 14 crowd) (lineMapAt 13 crowd) = true) ∧
    (∀ i ∈ between, (∃ n, i = .adv n) ∨ (∃ m, m ≠ 14 ∧ (i = .pinL m ∨ i = .pinH m)) ∨ (∃ p k, i = .rdb p k) ∨
      (∃ p, i = .rdr p) ∨ i = .rdy0 ∨ i = .rdy1) ∧
    (between.foldl (fun v i => after i v) (after .tickG crowd)).block.now =
      crowd.block.now + crowd.build.debounceTicks ∧
    (after .tickG edge).block.ovf = false := by
  refine ⟨by decide, by decide, by decide, by decide, ⟨⟨rfl, rfl⟩, by decide, ?_, ?_⟩, rfl, by decide, ?_,
    by decide +kernel, by decide +kernel⟩
  · unfold StoreTimely; decide
  · unfold StoreTimely; decide
  · simp [between]

/-- A full finite store, and an unbounded one. -/
theorem witness_StoresStayWithinCapacity :
    CapacityOk (setPendg [⟨4, false, 2⟩] edge) ∧ (∃ t, step (setPendg [⟨4, false, 2⟩] edge) = .next t) ∧
    CapacityOk gpio0 ∧ ∃ t, step gpio0 = .next t :=
  ⟨⟨by decide, by decide⟩, next_of_seen (by decide), rfl, next_of_seen (by decide)⟩

/-- Two words of P1, waiting. -/
def twoWords : State := { gpio0 with script := [0x10040000, 0x00001389] }

theorem witness_AdmittedScriptNeverStops : twoWords.build.wf = true ∧ AdmittedScript twoWords := by
  refine ⟨by decide, fun w h => ?_⟩
  rcases List.mem_cons.mp h with rfl | h
  · exact ⟨.pinL 4, rfl⟩
  · rcases List.mem_singleton.mp h with rfl
    exact ⟨.adv 5001, rfl⟩

theorem witness_DecodeOfEncode : (Instr.adv 0xFFFFFF).wf = true ∧ (Instr.setbt1 1 11).wf = true := by decide

theorem witness_EncodeOfDecode : decode 0x40010003 = .ok (.rdb 1 3) := rfl

theorem witness_DecodedWordMatchesOneRow : decode 0x2401FFFF = .ok (.xInit 1) := rfl

/-- Each hypothesis of the first clause, in turn, and both those of the second. -/
theorem witness_StepRunsTheNextWord :
    (twoWords.build.wf = true ∧ twoWords.script = 0x10040000 :: [0x00001389] ∧ decode 0x10040000 = .ok (.pinL 4) ∧
      (Instr.pinL 4).variantOk twoWords.build = true ∧ (Instr.pinL 4).flagOk twoWords.build = true ∧
      (Instr.pinL 4).feedOk twoWords.feed = true) ∧
    gpio0.build.wf = true ∧ gpio0.script = [] ∧ i2c0.build.wf = true ∧ i2c0.script = [] :=
  ⟨⟨by decide, rfl, rfl, by decide, by decide, by decide⟩, by decide, rfl, by decide, rfl⟩

theorem gpio_wf (w : EventWord) : ({ gpio0 with script := [w] } : State).build.wf = true :=
  show gpio0.build.wf = true by decide

/-- A word for each clause. -/
theorem witness_StepRefusesByName :
    (∀ w, ({ gpio0 with script := [w] } : State).build.wf = true) ∧
    decode 0x40000004 = .error .indexRange ∧
    (decode 0x10040000 = .ok (.pinL 4) ∧ (Instr.pinL 4).row.backend = .gpioOnly ∧ i2c0.build.variant = .i2c) ∧
    (decode 0x34000001 = .ok (.mapw 0 1) ∧ (Instr.mapw 0 1).row.backend = .i2cOnly ∧
      gpio0.build.variant = .gpio) ∧
    (decode 0x33000009 = .ok (.setbt1 0 9) ∧ gpio0.build.variant.nflags ≤ (9 : Flag).val) ∧
    (decode 0x44000000 = .ok .rtick ∧ Instr.rtick.row.cls = .internal ∧ gpio0.feed = .stimulus ∧
      Instr.rtick.variantOk gpio0.build = true ∧ Instr.rtick.flagOk gpio0.build = true) :=
  ⟨gpio_wf, rfl, ⟨rfl, by decide, by decide⟩, ⟨rfl, by decide, by decide⟩, ⟨rfl, by decide⟩,
    ⟨rfl, by decide⟩⟩

theorem witness_PseudoOperationsExpand : 0 < 1 ∧ 16777 * 1000 < 2 ^ 24 := by decide

end Sys2Proof.Tests
end

/-! PROOFS of the statements on the block's state (spec/10_state.md): what an operation and a step can do to the
stored state, said once as a relation, and the invariants and frames derived from it. -/

namespace Sys2Proof.Machine

/-! ### Updates outside the stores

Most of what operations do leaves the pending stores, `NOW` and the status flags alone; such an update is called
quiet. -/

theorem axesOk_congr {s t : State} (hx : t.block.ax = s.block.ax) (hy : t.block.ay = s.block.ay)
    (h : AxesOk s) : AxesOk t := by
  simpa [AxesOk, readAx, readAy, hx, hy] using h

theorem axesOk_writeAx (p : Player) (v : AxisLevel) {s : State} (h : AxesOk s) : AxesOk (writeAx p v s) := by
  intro q
  rw [readAx_writeAx, readAy_writeAx]
  split
  · exact ⟨toByte_cases v, (h q).2⟩
  · exact h q

theorem axesOk_writeAy (p : Player) (v : AxisLevel) {s : State} (h : AxesOk s) : AxesOk (writeAy p v s) := by
  intro q
  rw [readAx_writeAy, readAy_writeAy]
  split
  · exact ⟨(h q).1, toByte_cases v⟩
  · exact h q

/-- `t` agrees with `s` on `NOW`, the build, the waiting words and the bytes returned; the detector is not disarmed,
and an axis register receives only a value of its domain. -/
structure Framed (s t : State) : Prop where
  build : t.build = s.build := by simp
  feed : t.feed = s.feed := by simp
  script : t.script = s.script := by simp
  returned : t.returned = s.returned := by simp
  now : t.block.now = s.block.now := by simp
  armed : s.block.armed = true → t.block.armed = true := by simp
  axes : AxesOk s → AxesOk t := by exact axesOk_congr (by simp) (by simp)

theorem Framed.refl (s : State) : Framed s s := {}

theorem Framed.trans {s t u : State} (h : Framed s t) (h' : Framed t u) : Framed s u where
  build := h'.build.trans h.build
  feed := h'.feed.trans h.feed
  script := h'.script.trans h.script
  returned := h'.returned.trans h.returned
  now := h'.now.trans h.now
  armed := h'.armed ∘ h.armed
  axes := h'.axes ∘ h.axes

/-- A framed update that leaves the stores and the status flags alone too. -/
structure Quiet (s t : State) : Prop extends Framed s t where
  pendg : t.block.pendg = s.block.pendg := by simp
  pendx : t.block.pendx = s.block.pendx := by simp
  buserr : t.block.buserr = s.block.buserr := by simp
  ovf : t.block.ovf = s.block.ovf := by simp

theorem Quiet.refl (s : State) : Quiet s s := {}

theorem Quiet.trans {s t u : State} (h : Quiet s t) (h' : Quiet t u) : Quiet s u where
  toFramed := h.toFramed.trans h'.toFramed
  pendg := h'.pendg.trans h.pendg
  pendx := h'.pendx.trans h.pendx
  buserr := h'.buserr.trans h.buserr
  ovf := h'.ovf.trans h.ovf

theorem writeAx_quiet (p : Player) (v : AxisLevel) (s : State) : Quiet s (writeAx p v s) :=
  { axes := axesOk_writeAx p v }

theorem writeAy_quiet (p : Player) (v : AxisLevel) (s : State) : Quiet s (writeAy p v s) :=
  { axes := axesOk_writeAy p v }

theorem writeBt_quiet (p : Player) (k : Flag) (v : Bool) (s : State) : Quiet s (writeBt p k v s) := {}

theorem setLed_quiet (v : Bool) (s : State) : Quiet s (setLed v s) := {}

theorem writePinq_quiet (l : Line) (v : Bool) (s : State) : Quiet s (writePinq l v s) := {}

theorem loadPinq_quiet (s : State) : Quiet s (loadPinq s) := {}

theorem arm_quiet (s : State) : Quiet s (arm s) := {}

theorem writePin_quiet (l : Line) (v : Bool) (s : State) : Quiet s (writePin l v s) := {}

theorem writePort_quiet (c : Chip) (v : Half) (s : State) : Quiet s (writePort c v s) := {}

theorem writeXirq_quiet (c : Chip) (v : Bool) (s : State) : Quiet s (writeXirq c v s) := {}

theorem writeBusf_quiet (n : Nat) (s : State) : Quiet s (writeBusf n s) := {}

theorem writeReady_quiet (v : Bool) (s : State) : Quiet s (writeReady v s) := {}

theorem afterPopChoice_quiet (due : Nat) (s : State) : Quiet s (afterPopChoice due s) := {}

theorem busAfter_quiet (s : State) : Quiet s (busAfter s) := {}

theorem report_quiet (s : State) : Quiet s (report s) := {}

theorem mapPressed_quiet (l : Line) (s : State) : Quiet s (mapPressed l s) :=
  mapPressed_preserves (P := Quiet s) (fun p v t h => h.trans (writeAx_quiet p v t))
    (fun p v t h => h.trans (writeAy_quiet p v t)) (fun p k v t h => h.trans (writeBt_quiet p k v t)) l s (.refl s)

theorem mapReleased_quiet (l : Line) (s : State) : Quiet s (mapReleased l s) :=
  mapReleased_preserves (P := Quiet s) (fun p v t h => h.trans (writeAx_quiet p v t))
    (fun p v t h => h.trans (writeAy_quiet p v t)) (fun p k v t h => h.trans (writeBt_quiet p k v t)) l s (.refl s)

theorem mapWord_quiet (p : Player) (w : Half) (s : State) : Quiet s (mapWord p w s) :=
  mapWord_preserves (P := Quiet s) p w (fun v t h => h.trans (writeAx_quiet p v t))
    (fun v t h => h.trans (writeAy_quiet p v t)) (fun k v t h => h.trans (writeBt_quiet p k v t)) s (.refl s)

/-- The decision of R70 writes the register file and the indicator only. -/
theorem gConfirm_quiet (l : Line) (rise : Bool) (s : State) : Quiet s (gConfirm l rise s) := by
  rcases gConfirm_cases l rise s with ⟨_, h⟩ | ⟨_, _, h⟩ | ⟨_, _, h⟩ <;> rw [h]
  · exact .refl s
  · exact (mapReleased_quiet l s).trans (setLed_quiet _ _)
  · exact (mapPressed_quiet l s).trans (setLed_quiet _ _)

/-! ### Edits: what the operations of a variant do between two ticks -/

/-- One elementary update of an operation of variant `v` that is no tick, no RESET and no read. -/
inductive Edit : Variant → State → State → Prop
  | quiet {v : Variant} {s t : State} (h : Quiet s t) : Edit v s t
  | scheduleG {s : State} (l : Line) (rise : Bool) : Edit .gpio s (scheduleG l rise s)
  | scheduleX {s : State} (c : Chip) (w : Half) : Edit .i2c s (scheduleX c w s)
  | buserr {s : State} : Edit .i2c s (setBuserr s)

/-- Any number of edits, one after another. -/
def Edits (v : Variant) : State → State → Prop := Relation.ReflTransGen (Edit v)

theorem Edits.ofQuiet {v : Variant} {s t : State} (h : Quiet s t) : Edits v s t := .single (.quiet h)

theorem Edits.trans {v : Variant} {s t u : State} (h : Edits v s t) (h' : Edits v t u) : Edits v s u :=
  Relation.ReflTransGen.trans h h'

/-- A transaction that fails (R122). -/
theorem busFail_edits (s : State) : Edits .i2c s (setBuserr (busAfter s)) :=
  (Edits.ofQuiet (busAfter_quiet s)).tail .buserr

theorem xInterrupt_edits (c : Chip) (s : State) : Edits .i2c s (xInterrupt c s) := by
  rcases xInterrupt_cases c s with ⟨_, h⟩ | ⟨_, h⟩ <;> rw [h]
  · exact busFail_edits s
  · exact (Edits.ofQuiet (busAfter_quiet s)).tail (.scheduleX c _)

theorem xConfirm_edits (c : Chip) (snap : Half) (s : State) : Edits .i2c s (xConfirm c snap s) := by
  rcases xConfirm_cases c snap s with ⟨_, h⟩ | ⟨_, _, h⟩ | ⟨_, _, h⟩ <;> rw [h]
  · exact busFail_edits s
  · exact .ofQuiet (busAfter_quiet s)
  · exact .ofQuiet (((busAfter_quiet s).trans (mapWord_quiet c _ _)).trans (setLed_quiet _ _))

theorem xInitialise_edits (c : Chip) (s : State) : Edits .i2c s (xInitialise c s) := by
  rcases xInitialise_cases c s with ⟨_, h⟩ | ⟨_, h⟩ <;> rw [h]
  · exact busFail_edits s
  · exact .ofQuiet (busAfter_quiet s)

theorem detectPhase_edits (s : State) : Edits .gpio s (detectPhase s) := by
  refine foldl_preserves (P := Edits .gpio s) _ (fun l t h => ?_) _ s .refl
  rcases detectLine_cases t l with ⟨_, e⟩ | ⟨_, e⟩ <;> rw [e]
  · exact h
  · exact (h.tail (.scheduleG l _)).tail (.quiet (writePinq_quiet l _ _))

theorem interruptPhase_edits (s : State) : Edits .i2c s (interruptPhase s) := by
  refine foldl_preserves (P := Edits .i2c s) _ (fun c t h => ?_) _ s .refl
  rcases serveChip_cases t c with ⟨_, e⟩ | ⟨_, e⟩ <;> rw [e]
  · exact h
  · exact (h.tail (.quiet (writeXirq_quiet c false t))).trans (xInterrupt_edits c _)

theorem bootX_edits (s : State) : Edits .i2c s (bootX s) :=
  ((xInitialise_edits 0 s).trans (xInitialise_edits 1 _)).tail
    (.quiet (((writeXirq_quiet 0 false _).trans (writeXirq_quiet 1 false _)).trans (arm_quiet _)))

/-! ### A tick: pops and edits, then edits only, then the end of the tick -/

/-- An edit, or a due entry taken off the head of its store. -/
inductive PhaseStep : Variant → State → State → Prop
  | edit {v : Variant} {s t : State} (h : Edit v s t) : PhaseStep v s t
  | popG {s : State} {e : GEntry} {rest : List GEntry} (hq : s.block.pendg = e :: rest)
      (hd : e.due ≤ s.block.now) : PhaseStep .gpio s (setPendg rest s)
  | popX {s : State} {e : XEntry} {rest : List XEntry} (hq : s.block.pendx = e :: rest)
      (hd : e.due ≤ s.block.now) : PhaseStep .i2c s (setPendx rest s)

/-- Any number of phase steps, one after another. -/
def PhaseSteps (v : Variant) : State → State → Prop := Relation.ReflTransGen (PhaseStep v)

theorem Edits.phaseSteps {v : Variant} {s t : State} (h : Edits v s t) : PhaseSteps v s t :=
  Relation.ReflTransGen.mono (fun _ _ => PhaseStep.edit) _ _ h

theorem confirmPhaseG_steps (s : State) : PhaseSteps .gpio s (confirmPhaseG s.block.pendg s) := by
  refine confirmPhaseG_preserves (P := PhaseSteps .gpio s)
    (fun due t h => h.tail (.edit (.quiet (afterPopChoice_quiet due t))))
    (fun e rest t h hq hp => ?_) gConfirm_pendg _ s rfl .refl
  have hpop : PhaseStep .gpio (afterPopChoice e.due t) (setPendg rest (afterPopChoice e.due t)) :=
    .popG (by simpa using hq) (by simpa using popsNow_due hp)
  exact ((h.tail (.edit (.quiet (afterPopChoice_quiet e.due t)))).tail hpop).tail
    (.edit (.quiet (gConfirm_quiet _ _ _)))

theorem confirmPhaseX_steps (s : State) : PhaseSteps .i2c s (confirmPhaseX s.block.pendx s) := by
  refine confirmPhaseX_preserves (P := PhaseSteps .i2c s)
    (fun due t h => h.tail (.edit (.quiet (afterPopChoice_quiet due t))))
    (fun e rest t h hq hp => ?_) xConfirm_pendx _ s rfl .refl
  have hpop : PhaseStep .i2c (afterPopChoice e.due t) (setPendx rest (afterPopChoice e.due t)) :=
    .popX (by simpa using hq) (by simpa using popsNow_due hp)
  exact ((h.tail (.edit (.quiet (afterPopChoice_quiet e.due t)))).tail hpop).trans
    (xConfirm_edits _ _ _).phaseSteps

/-- The due times of the store of a variant. -/
def dues (v : Variant) (s : State) : List Nat :=
  match v with
  | .gpio => s.block.pendg.map GEntry.due
  | .i2c => s.block.pendx.map XEntry.due

@[simp] theorem dues_gpio (s : State) : dues .gpio s = s.block.pendg.map GEntry.due := rfl

@[simp] theorem dues_i2c (s : State) : dues .i2c s = s.block.pendx.map XEntry.due := rfl

/-- No entry at the head of the store is at the end of its latency window (R65 corner case (d)). -/
def HeadWaits (v : Variant) (s : State) : Prop :=
  ∀ d ∈ (dues v s).head?, s.block.now < d + s.build.confirmLatencyMax

theorem headWaits_of_not_popsNow {s : State} {due : Nat} (h : ¬ popsNow due s = true) :
    s.block.now < due + s.build.confirmLatencyMax := by
  rcases not_popsNow (Bool.eq_false_iff.mpr h) with h | h <;> omega

theorem confirmPhaseG_headWaits (q : List GEntry) (s : State) (hq : s.block.pendg = q) :
    HeadWaits .gpio (confirmPhaseG q s) := by
  induction q generalizing s with
  | nil => simp [HeadWaits, confirmPhaseG, hq]
  | cons e rest ih =>
    unfold confirmPhaseG
    split
    · exact ih _ (by simp)
    · simpa [HeadWaits, hq] using headWaits_of_not_popsNow ‹_›

theorem confirmPhaseX_headWaits (q : List XEntry) (s : State) (hq : s.block.pendx = q) :
    HeadWaits .i2c (confirmPhaseX q s) := by
  induction q generalizing s with
  | nil => simp [HeadWaits, confirmPhaseX, hq]
  | cons e rest ih =>
    unfold confirmPhaseX
    split
    · exact ih _ (by simp)
    · simpa [HeadWaits, hq] using headWaits_of_not_popsNow ‹_›

/-- A property every step keeps is kept along a chain of steps. -/
theorem kept_along {R : State → State → Prop} {P : State → Prop} (hR : ∀ s t, R s t → P s → P t) {s t : State}
    (h : Relation.ReflTransGen R s t) (hs : P s) : P t := by
  induction h with
  | refl => exact hs
  | tail _ hbc ih => exact hR _ _ hbc ih

theorem scheduleG_framed (l : Line) (rise : Bool) (s : State) : Framed s (scheduleG l rise s) := by
  rcases scheduleG_cases l rise s with ⟨_, h⟩ | ⟨_, h⟩ <;> rw [h] <;> exact {}

theorem scheduleX_framed (c : Chip) (w : Half) (s : State) : Framed s (scheduleX c w s) := by
  rcases scheduleX_cases c w s with ⟨_, h⟩ | ⟨_, h⟩ <;> rw [h] <;> exact {}

theorem Edit.framed {v : Variant} {s t : State} (h : Edit v s t) : Framed s t := by
  cases h with
  | quiet q => exact q.toFramed
  | scheduleG l r => exact scheduleG_framed l r s
  | scheduleX c w => exact scheduleX_framed c w s
  | buserr => exact {}

theorem PhaseStep.framed {v : Variant} {s t : State} (h : PhaseStep v s t) : Framed s t := by
  cases h with
  | edit h => exact h.framed
  | popG | popX => exact {}

theorem PhaseSteps.framed {v : Variant} {s t : State} (h : PhaseSteps v s t) : Framed s t :=
  kept_along (P := Framed s) (fun _ _ e h => h.trans e.framed) h (.refl s)

/-- One tick of a variant (R65, R80). -/
def tickOf (v : Variant) (s : State) : State :=
  match v with
  | .gpio => tickGpio s
  | .i2c => tickExpander s

theorem tick_eq_tickOf (s : State) : tick s = tickOf s.build.variant s := rfl

/-- What a tick does: first the confirm phase, after which the head of the store waits, or, in the first tick after a
reset, nothing; then edits alone; then its end. -/
theorem tickOf_phases (v : Variant) (s : State) :
    ∃ u w, PhaseSteps v s u ∧ (u = s ∧ s.block.armed = false ∨ HeadWaits v u) ∧ Edits v u w ∧
      w.block.armed = true ∧ tickOf v s = endTick w := by
  cases v <;> cases ha : s.block.armed
  case gpio.false =>
    exact ⟨s, arm (loadPinq s), .refl, .inl ⟨rfl, rfl⟩, .ofQuiet ((loadPinq_quiet s).trans (arm_quiet _)), rfl,
      by simp [tickOf, tickGpio, tickBodyG, ha]⟩
  case gpio.true =>
    have hc := confirmPhaseG_steps s
    have hd := detectPhase_edits (confirmPhaseG s.block.pendg s)
    exact ⟨_, _, hc, .inr (confirmPhaseG_headWaits _ s rfl), hd, (PhaseSteps.framed (hc.trans hd.phaseSteps)).armed ha,
      by simp [tickOf, tickGpio, tickBodyG, ha]⟩
  case i2c.false =>
    exact ⟨s, bootX s, .refl, .inl ⟨rfl, rfl⟩, bootX_edits s, rfl, by simp [tickOf, tickExpander, tickBodyX, ha]⟩
  case i2c.true =>
    have hc := confirmPhaseX_steps s
    have hd := interruptPhase_edits (confirmPhaseX s.block.pendx s)
    exact ⟨_, _, hc, .inr (confirmPhaseX_headWaits _ s rfl), hd, (PhaseSteps.framed (hc.trans hd.phaseSteps)).armed ha,
      by simp [tickOf, tickExpander, tickBodyX, ha]⟩

/-- A property of the states inside a tick, kept by phase steps, carried from the tick's beginning to its end. -/
theorem tickOf_preserves {v : Variant} {P Q : State → Prop} (hbegin : ∀ s, P s → Q s)
    (hstep : ∀ s t, PhaseStep v s t → Q s → Q t) (hend : ∀ s, Q s → P (endTick s)) (s : State) (h : P s) :
    P (tickOf v s) := by
  obtain ⟨u, w, hsu, -, huw, -, e⟩ := tickOf_phases v s
  rw [e]
  exact hend w (kept_along hstep (hsu.trans huw.phaseSteps) (hbegin s h))

theorem tickOf_build (v : Variant) (s : State) : (tickOf v s).build = s.build :=
  tickOf_preserves (P := fun t => t.build = s.build) (Q := fun t => t.build = s.build) (fun _ h => h)
    (fun _ _ e h => e.framed.build.trans h) (fun t h => by simpa using h) s rfl

theorem advance_eq_iterate (n : Nat) (s : State) : advance n s = (tickOf s.build.variant)^[n] s := by
  induction n generalizing s with
  | zero => rfl
  | succ n ih => rw [advance_succ, ih, tick_eq_tickOf, tickOf_build, Function.iterate_succ_apply]

/-! ### What an operation can do -/

/-- RDB and RDR, the operations that give bytes back. -/
def ReadsBack (i : Instr) : Prop := (∃ p k, i = .rdb p k) ∨ ∃ p, i = .rdr p

/-- What operation `i` can do to state `s`. Where the build has the operation (R60), `v` is the variant of the
build. -/
inductive Effect (i : Instr) (s : State) : State → Prop
  | reset (h : i = .reset) : Effect i s (resetBlock s)
  | read (bytes : List Byte) (h : ReadsBack i) : Effect i s (giveBack bytes s)
  | edits {t : State} (v : Variant) (hv : i.variantOk s.build = true → s.build.variant = v) (h : Edits v s t) :
      Effect i s t
  | ticks (v : Variant) (hv : i.variantOk s.build = true → s.build.variant = v) (n : Nat) :
      Effect i s ((tickOf v)^[n] s)

theorem Effect.quiet {i : Instr} {s t : State} (h : Quiet s t) : Effect i s t :=
  .edits s.build.variant (fun _ => rfl) (.ofQuiet h)

theorem variant_of_gpioOnly {i : Instr} {b : Build} (hr : i.row.backend = .gpioOnly) (h : i.variantOk b = true) :
    b.variant = .gpio := by
  simpa [Instr.variantOk, hr] using h

theorem variant_of_i2cOnly {i : Instr} {b : Build} (hr : i.row.backend = .i2cOnly) (h : i.variantOk b = true) :
    b.variant = .i2c := by
  simpa [Instr.variantOk, hr] using h

theorem exec_rdb (p : Player) (k : ByteIndex) (s : State) :
    exec (.rdb p k) s = .next (giveBack [recordByte p k s] s) := by
  simp [exec, execRdb, memRead_recordAddr]

theorem execPort_quiet (c : Chip) (v : Half) (s : State) :
    Quiet s (writePort c v (if v ≠ portWord c s then writeXirq c true s else s)) := by
  split
  · exact (writeXirq_quiet c true s).trans (writePort_quiet c v _)
  · exact writePort_quiet c v s

/-- The one case analysis over the thirty operations. -/
theorem exec_effect {i : Instr} {s t : State} (h : exec i s = .next t) : Effect i s t := by
  cases i with
  | rdb p k => rw [exec_rdb] at h; cases h; exact .read _ (.inl ⟨p, k, rfl⟩)
  | rdr p => cases h; exact .read _ (.inr ⟨p, rfl⟩)
  | reset => cases h; exact .reset rfl
  | adv n => cases h; rw [advance_eq_iterate]; exact .ticks _ (fun _ => rfl) _
  | tickG => cases h; exact .ticks .gpio (variant_of_gpioOnly rfl) 1
  | tickX => cases h; exact .ticks .i2c (variant_of_i2cOnly rfl) 1
  | gFall l => cases h; exact .edits .gpio (variant_of_gpioOnly rfl) (.single (.scheduleG l false))
  | gRise l => cases h; exact .edits .gpio (variant_of_gpioOnly rfl) (.single (.scheduleG l true))
  | xIrq c => cases h; exact .edits .i2c (variant_of_i2cOnly rfl) (xInterrupt_edits c s)
  | xConf c w => cases h; exact .edits .i2c (variant_of_i2cOnly rfl) (xConfirm_edits c w s)
  | xInit c => cases h; exact .edits .i2c (variant_of_i2cOnly rfl) (xInitialise_edits c s)
  | gConfF l | gConfR l => cases h; exact .quiet (gConfirm_quiet l _ s)
  | maplP l => cases h; exact .quiet (mapPressed_quiet l s)
  | maplR l => cases h; exact .quiet (mapReleased_quiet l s)
  | mapw p w => cases h; exact .quiet (mapWord_quiet p w s)
  | setaxX p v => cases h; exact .quiet (writeAx_quiet p v s)
  | setaxY p v => cases h; exact .quiet (writeAy_quiet p v s)
  | setbt0 p k | setbt1 p k => cases h; exact .quiet (writeBt_quiet p k _ s)
  | led0 | led1 => cases h; exact .quiet (setLed_quiet _ s)
  | pinL l | pinH l => cases h; exact .quiet (writePin_quiet l _ s)
  | port c v => cases h; exact .quiet (execPort_quiet c v s)
  | irq c => cases h; exact .quiet (writeXirq_quiet c true s)
  | busf n => cases h; exact .quiet (writeBusf_quiet _ s)
  | rdy0 | rdy1 => cases h; exact .quiet (writeReady_quiet _ s)
  | rtick => cases h; exact .quiet (report_quiet s)

/-- A property kept by each kind of effect is kept by the operation. -/
theorem Effect.preserves {P : State → Prop} {i : Instr} {s t : State} (he : Effect i s t)
    (hreset : i = .reset → P s → P (resetBlock s)) (hread : ReadsBack i → ∀ bytes, P s → P (giveBack bytes s))
    (hedit : ∀ v, (i.variantOk s.build = true → s.build.variant = v) → ∀ u w, Edit v u w → P u → P w)
    (htick : ∀ v, (i.variantOk s.build = true → s.build.variant = v) → ∀ u, P u → P (tickOf v u)) (h : P s) : P t := by
  cases he with
  | reset hi => exact hreset hi h
  | read bytes hi => exact hread hi bytes h
  | edits v hv hs => exact kept_along (hedit v hv) hs h
  | ticks v hv n => exact Function.Iterate.rec P h (htick v hv) n

/-- An invariant of phase steps and of a tick's end, kept by RESET and reads, is kept by the operation. -/
theorem Effect.keeps {P : State → Prop} {i : Instr} {s t : State} (he : Effect i s t)
    (hreset : i = .reset → P s → P (resetBlock s)) (hread : ReadsBack i → ∀ bytes, P s → P (giveBack bytes s))
    (hstep : ∀ v u w, PhaseStep v u w → P u → P w) (hend : ∀ u, P u → P (endTick u)) (h : P s) : P t :=
  he.preserves hreset hread (fun v _ u w e => hstep v u w (.edit e))
    (fun v _ => tickOf_preserves (fun _ hu => hu) (hstep v) hend) h

/-- An admitted word names an operation the build has (R60). -/
theorem variantOk_of_admitWord {s : State} {w : EventWord} {i : Instr} (h : admitWord s w = .ok i) :
    i.variantOk s.build = true := by
  unfold admitWord at h
  split at h
  · cases h
  · rename_i j _
    cases hv : j.variantOk s.build
    · simp [objection, hv] at h
    · split at h
      · cases h
      · cases h; exact hv

theorem freeTick_variantOk (s : State) : (freeTick s).variantOk s.build = true := by
  cases hv : s.build.variant <;> simp [freeTick, hv, Instr.variantOk, Instr.row]

/-- A step performs one operation that the build has: the next word's, taken off the script, or a free tick. -/
theorem step_effect {s t : State} (h : step s = .next t) :
    ∃ words i, i.variantOk s.build = true ∧ Effect i { s with script := words } t := by
  unfold step at h
  split at h
  · split at h
    · exact ⟨s.script, freeTick s, freeTick_variantOk s, exec_effect h⟩
    · rename_i w rest _
      split at h
      · cases h
      · exact ⟨rest, _, variantOk_of_admitWord ‹_›, exec_effect h⟩
  · cases h

end Sys2Proof.Machine

/-! PROOFS of the statements on the block's state: the frames (O39, O40), the sticky flags (O41), the entries still to
come (O42), the invariants of every step (O44, O46, O47) and the reset state (O2, O48). -/

namespace Sys2Proof.Machine

/-! ### Edits and pops on the stores -/

theorem Edit.pendg_subset {v : Variant} {s t : State} (h : Edit v s t) : s.block.pendg ⊆ t.block.pendg := by
  cases h with
  | quiet q => rw [q.pendg]; exact List.Subset.refl _
  | scheduleG l r => rcases scheduleG_cases l r s with ⟨_, h⟩ | ⟨_, h⟩ <;> simp [h]
  | scheduleX c w => rcases scheduleX_cases c w s with ⟨_, h⟩ | ⟨_, h⟩ <;> simp [h]
  | buserr => exact List.Subset.refl _

theorem Edit.pendx_subset {v : Variant} {s t : State} (h : Edit v s t) : s.block.pendx ⊆ t.block.pendx := by
  cases h with
  | quiet q => rw [q.pendx]; exact List.Subset.refl _
  | scheduleG l r => rcases scheduleG_cases l r s with ⟨_, h⟩ | ⟨_, h⟩ <;> simp [h]
  | scheduleX c w => rcases scheduleX_cases c w s with ⟨_, h⟩ | ⟨_, h⟩ <;> simp [h]
  | buserr => exact List.Subset.refl _

/-- An edit appends at most one confirmation, scheduled now. -/
theorem Edit.dues {v : Variant} {s t : State} (h : Edit v s t) (w : Variant) :
    dues w t = dues w s ∨ dues w t = dues w s ++ [dueTime s] := by
  cases h with
  | quiet q => cases w <;> simp [q.pendg, q.pendx]
  | scheduleG l r => rcases scheduleG_cases l r s with ⟨_, h⟩ | ⟨_, h⟩ <;> cases w <;> simp [h]
  | scheduleX c x => rcases scheduleX_cases c x s with ⟨_, h⟩ | ⟨_, h⟩ <;> cases w <;> simp [h]
  | buserr => exact .inl rfl

/-! ### No confirmation is cancelled -/

/-- Every entry of `s` due at `n` or later is in its store in `t`. -/
def KeepsEntriesFrom (n : Nat) (s t : State) : Prop :=
  (∀ e ∈ s.block.pendg, n ≤ e.due → e ∈ t.block.pendg) ∧ ∀ e ∈ s.block.pendx, n ≤ e.due → e ∈ t.block.pendx

theorem KeepsEntriesFrom.mono {m n : Nat} {s t : State} (h : KeepsEntriesFrom m s t) (hmn : m ≤ n) :
    KeepsEntriesFrom n s t :=
  ⟨fun e he hn => h.1 e he (hmn.trans hn), fun e he hn => h.2 e he (hmn.trans hn)⟩

theorem KeepsEntriesFrom.edit {n : Nat} {s t u : State} {v : Variant} (h : KeepsEntriesFrom n s t)
    (he : Edit v t u) : KeepsEntriesFrom n s u :=
  ⟨fun e hs hn => he.pendg_subset (h.1 e hs hn), fun e hs hn => he.pendx_subset (h.2 e hs hn)⟩

/-- A popped entry is due, so it is none of those still to come. -/
theorem KeepsEntriesFrom.phaseStep {n : Nat} {s t u : State} {v : Variant} (h : KeepsEntriesFrom n s t)
    (hn : t.block.now < n) (hp : PhaseStep v t u) : KeepsEntriesFrom n s u := by
  obtain ⟨hg, hx⟩ := h
  cases hp with
  | edit he => exact KeepsEntriesFrom.edit ⟨hg, hx⟩ he
  | @popG _ e rest hq hd =>
    refine ⟨fun e' hs hn' => ?_, hx⟩
    have hm : e' = e ∨ e' ∈ rest := by simpa [hq] using hg e' hs hn'
    exact hm.resolve_left (by rintro rfl; omega)
  | @popX _ e rest hq hd =>
    refine ⟨hg, fun e' hs hn' => ?_⟩
    have hm : e' = e ∨ e' ∈ rest := by simpa [hq] using hx e' hs hn'
    exact hm.resolve_left (by rintro rfl; omega)

theorem KeepsEntriesFrom.tickOf {s t : State} (v : Variant) (h : KeepsEntriesFrom t.block.now s t) :
    KeepsEntriesFrom (tickOf v t).block.now s (tickOf v t) := by
  refine tickOf_preserves (P := fun u => KeepsEntriesFrom u.block.now s u)
    (Q := fun u => KeepsEntriesFrom (u.block.now + 1) s u) (fun u hu => hu.mono (Nat.le_succ _))
    (fun u w hp hu => ?_) (fun u hu => by simpa [KeepsEntriesFrom] using hu) t h
  rw [hp.framed.now]
  exact hu.phaseStep (Nat.lt_succ_self _) hp

/-- Settles O42: inside a tick the entries due later than `NOW` stay, and `NOW` grows by 1 at its end. -/
theorem noConfirmationIsCancelled : Obligations.NoConfirmationIsCancelled := by
  intro i s t hi h
  exact (exec_effect h).preserves (P := fun u => KeepsEntriesFrom u.block.now s u) (fun hr => absurd hr hi)
    (fun _ _ hs => hs) (fun v _ u w he hu => by rw [he.framed.now]; exact hu.edit he)
    (fun v _ u hu => hu.tickOf v) ⟨fun _ he _ => he, fun _ he _ => he⟩

/-! ### The axis registers -/

theorem axesOk_resetBlock (s : State) : AxesOk (resetBlock s) := by
  intro p
  simp [readAx, readAy, Block.reset, AxisOk]

/-- Settles O44: every register update writes an `AxisLevel`. -/
theorem axesStayInTheirDomain : Obligations.AxesStayInTheirDomain := by
  intro s t hs h
  obtain ⟨words, i, -, he⟩ := step_effect h
  exact he.keeps (P := AxesOk) (fun _ _ => axesOk_resetBlock _) (fun _ _ hu => hu)
    (fun _ _ _ hp hu => hp.framed.axes hu) (fun u hu => axesOk_congr (by simp) (by simp) hu) hs

/-! ### Timeliness -/

theorem timely_iff (s : State) :
    Timely s ↔ OneVariant s ∧ (s.block.armed = false → s.block.now = 0) ∧ ∀ v, StoreTimely (dues v s) s := by
  refine and_congr_right fun _ => and_congr_right fun _ => ⟨fun h v => ?_, fun h => ⟨h .gpio, h .i2c⟩⟩
  cases v
  · exact h.1
  · exact h.2

theorem StoreTimely.congr {ds : List Nat} {s t : State} (hb : t.build = s.build) (hn : t.block.now = s.block.now)
    (h : StoreTimely ds s) : StoreTimely ds t := by
  simpa [StoreTimely, hb, hn] using h

theorem StoreTimely.sublist {ds es : List Nat} {s : State} (h : StoreTimely ds s) (hs : es.Sublist ds) :
    StoreTimely es s :=
  ⟨h.1.sublist hs, fun d hd => h.2 d (hs.subset hd)⟩

/-- A confirmation scheduled now is due no earlier than the ones before it. -/
theorem StoreTimely.append_dueTime {ds : List Nat} {s : State} (h : StoreTimely ds s) :
    StoreTimely (ds ++ [dueTime s]) s := by
  obtain ⟨hsorted, hwindow⟩ := h
  refine ⟨List.pairwise_append.mpr ⟨hsorted, List.pairwise_singleton _ _, fun d hd e he => ?_⟩, fun d hd => ?_⟩
  · rw [List.mem_singleton.mp he]
    exact (hwindow d hd).2.1
  · rcases List.mem_append.mp hd with hd | hd
    · exact hwindow d hd
    · rw [List.mem_singleton.mp hd]
      unfold dueTime
      omega

theorem oneVariant_resetBlock (s : State) : OneVariant (resetBlock s) := by
  cases hv : s.build.variant <;> simp [OneVariant, hv, Block.reset]

theorem timely_resetBlock (s : State) : Timely (resetBlock s) := by
  refine ⟨oneVariant_resetBlock s, fun _ => rfl, ?_, ?_⟩ <;> simp [StoreTimely, Block.reset]

theorem OneVariant.edit {v : Variant} {s t : State} (hv : s.build.variant = v) (he : Edit v s t)
    (h : OneVariant s) : OneVariant t := by
  cases he with
  | quiet q => simpa [OneVariant, q.build, q.pendg, q.pendx, q.buserr] using h
  | scheduleG l r => rcases scheduleG_cases l r s with ⟨_, e⟩ | ⟨_, e⟩ <;> simpa [OneVariant, e, hv] using h
  | scheduleX c w => rcases scheduleX_cases c w s with ⟨_, e⟩ | ⟨_, e⟩ <;> simpa [OneVariant, e, hv] using h
  | buserr => simpa [OneVariant, hv] using h

theorem Timely.edit {v : Variant} {s t : State} (hv : s.build.variant = v) (he : Edit v s t) (h : Timely s) :
    Timely t := by
  obtain ⟨hone, harmed, hstore⟩ := (timely_iff s).mp h
  refine (timely_iff t).mpr ⟨hone.edit hv he, fun ha => ?_, fun w => ?_⟩
  · have hs : s.block.armed = false := by
      by_contra hs
      simp [he.framed.armed (by simpa using hs)] at ha
    rw [he.framed.now, harmed hs]
  · refine StoreTimely.congr he.framed.build he.framed.now ?_
    rcases he.dues w with e | e <;> rw [e]
    · exact hstore w
    · exact (hstore w).append_dueTime

theorem Timely.phaseStep {v : Variant} {s t : State} (hv : s.build.variant = v) (hp : PhaseStep v s t)
    (h : Timely s) : Timely t := by
  cases hp with
  | edit he => exact h.edit hv he
  | @popG _ e rest hq hd =>
    obtain ⟨hone, harmed, hg, hx⟩ := h
    refine ⟨by simpa [OneVariant, hv] using hone, harmed, hg.sublist ?_, hx⟩
    simp [hq]
  | @popX _ e rest hq hd =>
    obtain ⟨hone, harmed, hg, hx⟩ := h
    refine ⟨by simpa [OneVariant, hv] using hone, harmed, hg, hx.sublist ?_⟩
    simp [hq]

/-- No entry is at the end of its latency window, so none is left behind when `NOW` grows. -/
def NoneOverdue (s : State) : Prop := ∀ v, ∀ d ∈ dues v s, s.block.now < d + s.build.confirmLatencyMax

theorem NoneOverdue.edit {v : Variant} {s t : State} (hD : 0 < s.build.debounceTicks) (he : Edit v s t)
    (h : NoneOverdue s) : NoneOverdue t := by
  intro w d hd
  rw [he.framed.build, he.framed.now]
  rcases he.dues w with e | e <;> rw [e] at hd
  · exact h w d hd
  · rcases List.mem_append.mp hd with hd | hd
    · exact h w d hd
    · rw [List.mem_singleton.mp hd]
      unfold dueTime
      omega

/-- Before the first tick `NOW` is 0 and every due time at least `DEBOUNCE_TICKS`. -/
theorem noneOverdue_of_unarmed {s : State} (hD : 0 < s.build.debounceTicks) (h : Timely s)
    (ha : s.block.armed = false) : NoneOverdue s := by
  intro v d hd
  obtain ⟨-, harmed, hstore⟩ := (timely_iff s).mp h
  have hd := ((hstore v).2 d hd).1
  have hn := harmed ha
  omega

theorem dues_of_ne {s : State} (h : OneVariant s) {v : Variant} (hv : v ≠ s.build.variant) : dues v s = [] := by
  unfold OneVariant at h
  split at h
  · rename_i hs
    cases v
    · exact absurd hs.symm hv
    · simp [h.1]
  · rename_i hs
    cases v
    · simp [h]
    · exact absurd hs.symm hv

/-- The store is sorted: when its head waits, every entry does. -/
theorem noneOverdue_of_headWaits {s : State} (h : Timely s) (hw : HeadWaits s.build.variant s) : NoneOverdue s := by
  obtain ⟨hone, -, hstore⟩ := (timely_iff s).mp h
  intro v d hd
  by_cases hv : v = s.build.variant
  · subst hv
    have hsorted := (hstore s.build.variant).1
    unfold HeadWaits at hw
    cases hq : dues s.build.variant s with
    | nil => simp [hq] at hd
    | cons e rest =>
      rw [hq] at hd hsorted hw
      have he : s.block.now < e + s.build.confirmLatencyMax := hw e rfl
      rcases List.mem_cons.mp hd with rfl | hr
      · exact he
      · have := List.rel_of_pairwise_cons hsorted hr
        omega
  · simp [dues_of_ne hone hv] at hd

theorem Timely.endTick {s : State} (h : Timely s) (ha : s.block.armed = true) (hn : NoneOverdue s) :
    Timely (endTick s) := by
  obtain ⟨hone, -, hstore⟩ := (timely_iff s).mp h
  refine (timely_iff _).mpr ⟨by simpa [OneVariant] using hone, by simp [ha], fun v => ?_⟩
  have hd : dues v (Machine.endTick s) = dues v s := by cases v <;> simp
  rw [hd]
  refine ⟨(hstore v).1, fun d hd => ?_⟩
  obtain ⟨hlo, hhi, -⟩ := (hstore v).2 d hd
  have := hn v d hd
  simp only [endTick_build, endTick_block]
  omega

theorem Timely.tickOf {v : Variant} {s : State} (hD : 0 < s.build.debounceTicks) (hv : s.build.variant = v)
    (h : Timely s) : Timely (tickOf v s) := by
  obtain ⟨u, w, hsu, hwait, huw, ha, e⟩ := tickOf_phases v s
  have hub : u.build = s.build := (PhaseSteps.framed hsu).build
  have hu : Timely u :=
    (kept_along (P := fun x => x.build = s.build ∧ Timely x)
      (fun _ _ hp ⟨hb, hx⟩ => ⟨hp.framed.build.trans hb, hx.phaseStep (by rw [hb, hv]) hp⟩) hsu ⟨rfl, h⟩).2
  have hun : NoneOverdue u := by
    rcases hwait with ⟨rfl, hs⟩ | hw
    · exact noneOverdue_of_unarmed hD h hs
    · exact noneOverdue_of_headWaits hu (by rwa [hub, hv])
  obtain ⟨-, hw, hwn⟩ := kept_along (P := fun x => x.build = s.build ∧ Timely x ∧ NoneOverdue x)
    (fun _ _ he ⟨hb, hx, hxn⟩ => ⟨he.framed.build.trans hb, hx.edit (by rw [hb, hv]) he, hxn.edit (by rwa [hb]) he⟩)
    huw ⟨hub, hu, hun⟩
  rw [e]
  exact hw.endTick ha hwn

/-- Settles O46: after the confirm phase the head of the sorted store waits, so no entry is overdue when `NOW`
grows; a confirmation scheduled later in the tick lies ahead, `DEBOUNCE_TICKS` being positive. -/
theorem confirmationsStayTimely : Obligations.ConfirmationsStayTimely := by
  intro s t hD hs h
  obtain ⟨words, i, hok, he⟩ := step_effect h
  refine (he.preserves (P := fun u => u.build = s.build ∧ Timely u) (fun _ ⟨hb, _⟩ => ⟨hb, timely_resetBlock _⟩)
    (fun _ _ hu => hu) (fun v hv u w he ⟨hb, hu⟩ => ?_) (fun v hv u ⟨hb, hu⟩ => ?_) ⟨rfl, hs⟩).2
  · exact ⟨he.framed.build.trans hb, hu.edit (by rw [hb]; exact hv hok) he⟩
  · exact ⟨(tickOf_build v u).trans hb, hu.tickOf (by rwa [hb]) (by rw [hb]; exact hv hok)⟩

/-! ### Capacity -/

theorem capacityOk_resetBlock (s : State) : CapacityOk (resetBlock s) := by
  cases hc : s.build.pendingCap <;> simp [CapacityOk, hc, Block.reset]

theorem capacityOk_scheduleG (l : Line) (rise : Bool) {s : State} (h : CapacityOk s) :
    CapacityOk (scheduleG l rise s) := by
  rcases scheduleG_cases l rise s with ⟨hr, e⟩ | ⟨hr, e⟩ <;> rw [e] <;>
    cases hc : s.build.pendingCap
  case inl.none => simpa [CapacityOk, hc] using h
  case inl.some =>
    have hroom := (hasRoom_bounded hc _).mp hr
    simp only [CapacityOk, hc] at h
    simpa [CapacityOk, hc, Nat.succ_le_of_lt hroom] using h.2
  case inr.none => simp [hasRoom_unbounded hc] at hr
  case inr.some => simpa [CapacityOk, hc] using h

theorem capacityOk_scheduleX (c : Chip) (w : Half) {s : State} (h : CapacityOk s) :
    CapacityOk (scheduleX c w s) := by
  rcases scheduleX_cases c w s with ⟨hr, e⟩ | ⟨hr, e⟩ <;> rw [e] <;>
    cases hc : s.build.pendingCap
  case inl.none => simpa [CapacityOk, hc] using h
  case inl.some =>
    have hroom := (hasRoom_bounded hc _).mp hr
    simp only [CapacityOk, hc] at h
    simpa [CapacityOk, hc, Nat.succ_le_of_lt hroom] using h.1
  case inr.none => simp [hasRoom_unbounded hc] at hr
  case inr.some => simpa [CapacityOk, hc] using h

theorem CapacityOk.edit {v : Variant} {s t : State} (he : Edit v s t) (h : CapacityOk s) : CapacityOk t := by
  cases he with
  | quiet q => simpa [CapacityOk, q.build, q.pendg, q.pendx, q.ovf] using h
  | scheduleG l r => exact capacityOk_scheduleG l r h
  | scheduleX c w => exact capacityOk_scheduleX c w h
  | buserr => exact h

theorem CapacityOk.phaseStep {v : Variant} {s t : State} (hp : PhaseStep v s t) (h : CapacityOk s) :
    CapacityOk t := by
  cases hp with
  | edit he => exact h.edit he
  | popG hq hd | popX hq hd =>
    cases hc : s.build.pendingCap
    case none => simpa [CapacityOk, hc] using h
    case some =>
      simp only [CapacityOk, hc, hq, List.length_cons] at h
      simp only [CapacityOk, hc, setPendg_build, setPendg_block, setPendx_build, setPendx_block]
      omega

/-- Settles O47: an entry is appended only where `hasRoom`, which an unbounded store always answers. -/
theorem storesStayWithinCapacity : Obligations.StoresStayWithinCapacity := by
  intro s t hs h
  obtain ⟨words, i, -, he⟩ := step_effect h
  exact he.keeps (P := CapacityOk) (fun _ _ => capacityOk_resetBlock _) (fun _ _ hu => hu)
    (fun _ _ _ hp hu => hu.phaseStep hp) (fun u hu => by simpa [CapacityOk] using hu) hs

/-! ### The build, the script and the bytes returned -/

/-- The build, the feed and the waiting words of `t` are those of `s`, and but for RDB and RDR the bytes returned. -/
def LeavesBuildAndScript (i : Instr) (s t : State) : Prop :=
  t.build = s.build ∧ t.feed = s.feed ∧ t.script = s.script ∧ (¬ ReadsBack i → t.returned = s.returned)

theorem LeavesBuildAndScript.framed {i : Instr} {s t u : State} (h : LeavesBuildAndScript i s t)
    (hf : Framed t u) : LeavesBuildAndScript i s u := by
  obtain ⟨hb, hfe, hs, hr⟩ := h
  exact ⟨hf.build.trans hb, hf.feed.trans hfe, hf.script.trans hs, fun hi => hf.returned.trans (hr hi)⟩

/-- Settles O39: no effect of an operation reaches these fields, but for the bytes a read gives back. -/
theorem operationsLeaveBuildAndScript : Obligations.OperationsLeaveBuildAndScript := by
  intro i s t h
  have hkept : LeavesBuildAndScript i s t :=
    (exec_effect h).keeps (P := LeavesBuildAndScript i s) (fun _ hs => hs)
      (fun hi _ ⟨hb, hf, hs, _⟩ => ⟨hb, hf, hs, fun hn => absurd hi hn⟩) (fun _ _ _ hp hu => hu.framed hp.framed)
      (fun u hu => by simpa [LeavesBuildAndScript] using hu) ⟨rfl, rfl, rfl, fun _ => rfl⟩
  obtain ⟨hb, hf, hs, hr⟩ := hkept
  refine ⟨hb, hf, hs, fun hrdb hrdr => hr ?_⟩
  rintro (⟨p, k, e⟩ | ⟨p, e⟩)
  · exact hrdb p k e
  · exact hrdr p e

/-! ### The status flags -/

/-- The status flags set in `s` are set in `t`. -/
def KeepsFlags (s t : State) : Prop :=
  (s.block.buserr = true → t.block.buserr = true) ∧ (s.block.ovf = true → t.block.ovf = true)

theorem KeepsFlags.trans {s t u : State} (h : KeepsFlags s t) (h' : KeepsFlags t u) : KeepsFlags s u :=
  ⟨h'.1 ∘ h.1, h'.2 ∘ h.2⟩

theorem PhaseStep.keepsFlags {v : Variant} {s t : State} (h : PhaseStep v s t) : KeepsFlags s t := by
  cases h with
  | popG | popX => exact ⟨id, id⟩
  | edit he =>
    cases he with
    | quiet q => simp [KeepsFlags, q.buserr, q.ovf]
    | scheduleG l r => rcases scheduleG_cases l r s with ⟨_, e⟩ | ⟨_, e⟩ <;> simp [KeepsFlags, e]
    | scheduleX c w => rcases scheduleX_cases c w s with ⟨_, e⟩ | ⟨_, e⟩ <;> simp [KeepsFlags, e]
    | buserr => simp [KeepsFlags]

/-- Settles O41: the updates of the flags set them, and only RESET replaces the block. -/
theorem statusFlagsAreSticky : Obligations.StatusFlagsAreSticky := by
  intro i s t hi h
  exact (exec_effect h).keeps (P := KeepsFlags s) (fun hr => absurd hr hi) (fun _ _ hs => hs)
    (fun _ _ _ hp hu => hu.trans hp.keepsFlags) (fun u hu => by simpa [KeepsFlags] using hu) ⟨id, id⟩

/-! ### The register file -/

theorem scheduleG_sameRegs (l : Line) (rise : Bool) (s : State) : SameRegs s (scheduleG l rise s) := by
  rcases scheduleG_cases l rise s with ⟨_, h⟩ | ⟨_, h⟩ <;> rw [h] <;> exact ⟨rfl, rfl, rfl⟩

theorem scheduleX_sameRegs (c : Chip) (w : Half) (s : State) : SameRegs s (scheduleX c w s) := by
  rcases scheduleX_cases c w s with ⟨_, h⟩ | ⟨_, h⟩ <;> rw [h] <;> exact ⟨rfl, rfl, rfl⟩

theorem sameRegs_of_block {s t : State} (h : t.block = s.block) : SameRegs s t := by
  simp [SameRegs, h]

theorem busFail_sameRegs (s : State) : SameRegs s (setBuserr (busAfter s)) := by
  simp [SameRegs]

theorem xInterrupt_sameRegs (c : Chip) (s : State) : SameRegs s (xInterrupt c s) := by
  rcases xInterrupt_cases c s with ⟨_, h⟩ | ⟨_, h⟩ <;> rw [h]
  · exact busFail_sameRegs s
  · simpa [SameRegs] using scheduleX_sameRegs c (portWord c s) (busAfter s)

theorem xInitialise_sameRegs (c : Chip) (s : State) : SameRegs s (xInitialise c s) := by
  rcases xInitialise_cases c s with ⟨_, h⟩ | ⟨_, h⟩ <;> rw [h]
  · exact busFail_sameRegs s
  · exact sameRegs_of_block (busAfter_block s)

theorem execPort_sameRegs (c : Chip) (v : Half) (s : State) :
    SameRegs s (writePort c v (if v ≠ portWord c s then writeXirq c true s else s)) := by
  split <;> exact ⟨rfl, rfl, rfl⟩

/-- Settles O40: each of the operations leaves the register file, of which the records are a view. -/
theorem onlyConfirmationsWriteTheRegisterFile : Obligations.OnlyConfirmationsWriteTheRegisterFile := by
  intro i s t hi h
  have hregs : SameRegs s t := by
    rcases hi with ⟨l, rfl⟩ | ⟨l, rfl⟩ | ⟨l, rfl⟩ | ⟨l, rfl⟩ | ⟨c, v, rfl⟩ | ⟨c, rfl⟩ | ⟨c, rfl⟩ | ⟨c, rfl⟩ |
      ⟨n, rfl⟩ | rfl | rfl | ⟨p, k, rfl⟩ | ⟨p, rfl⟩ | rfl | rfl | rfl
    · cases h; exact ⟨rfl, rfl, rfl⟩
    · cases h; exact ⟨rfl, rfl, rfl⟩
    · cases h; exact scheduleG_sameRegs l false s
    · cases h; exact scheduleG_sameRegs l true s
    · cases h; exact execPort_sameRegs c v s
    · cases h; exact ⟨rfl, rfl, rfl⟩
    · cases h; exact xInterrupt_sameRegs c s
    · cases h; exact xInitialise_sameRegs c s
    · cases h; exact ⟨rfl, rfl, rfl⟩
    · cases h; exact ⟨rfl, rfl, rfl⟩
    · cases h; exact ⟨rfl, rfl, rfl⟩
    · rw [exec_rdb] at h; cases h; exact ⟨rfl, rfl, rfl⟩
    · cases h; exact ⟨rfl, rfl, rfl⟩
    · cases h; exact ⟨rfl, rfl, rfl⟩
    · cases h; exact ⟨rfl, rfl, rfl⟩
    · cases h; exact sameRegs_of_block (report_block s)
  obtain ⟨hx, hy, hb⟩ := hregs
  obtain ⟨hbuild, -⟩ := operationsLeaveBuildAndScript i s t h
  exact ⟨⟨hx, hy, hb⟩, memRead_congr (by rw [hbuild]) hx hy hb⟩

/-! ### The reset state -/

/-- Settles O2: by the table of R29 and the environment at rest. -/
theorem resetStateIsRestAndTable : Obligations.ResetStateIsRestAndTable := by
  refine ⟨rfl, fun l => ?_, fun c => ?_, fun c => ?_, rfl, rfl⟩
  · simp [pinLevel, State.reset, Env.rest]
  · simp [portWord, State.reset, Env.rest]
  · simp [xirqBit, State.reset, Env.rest]

/-- Settles O48: the state is what RESET leaves, for which each invariant holds. -/
theorem resetMeetsTheInvariants : Obligations.ResetMeetsTheInvariants := by
  intro v
  exact ⟨axesOk_resetBlock (State.ofScript v []),
    fun p k _ => by simp [readBt, State.ofScript, State.reset, Block.reset],
    timely_resetBlock (State.ofScript v []), capacityOk_resetBlock (State.ofScript v [])⟩

end Sys2Proof.Machine

/-! PROOFS of the statements on memory (spec/20_memory.md): the record address space (O31), the layout of a record
(O32) and the word a step performs (O54). -/

namespace Sys2Proof.Machine

/-! ### The record address space -/

/-- Settles O31: the eight addresses are those of the records' bytes, and the read checks the bound. -/
theorem recordAddressesAreEight : Obligations.RecordAddressesAreEight :=
  ⟨memRead_recordAddr, fun _ s h => memRead_none h s⟩

/-! ### The bits of a record -/

theorem recordBit_of_lt_nflags (p : Player) {n : Nat} {s : State} (hn : n < 12) (h : n < s.build.variant.nflags) :
    recordBit p n s = readBt p ⟨n, hn⟩ s := by
  simp [recordBit, hn, h]

/-- A bit for which the build has no flag is padding (R48). -/
theorem recordBit_of_nflags_le (p : Player) {n : Nat} {s : State} (h : s.build.variant.nflags ≤ n) :
    recordBit p n s = false := by
  simp [recordBit, Nat.not_lt.mpr h]

theorem nine_le_nflags (v : Variant) : 9 ≤ v.nflags := by
  cases v <;> decide

/-- Bit `j` of byte 2 stands for flag `j`, which both variants have (R45). -/
theorem recordByte_two_getLsbD (p : Player) (s : State) {j : Nat} (h : j < 8) :
    (recordByte p 2 s).getLsbD j = readBt p ⟨j, by omega⟩ s := by
  have hflag : j < s.build.variant.nflags := by
    have := nine_le_nflags s.build.variant
    omega
  calc (recordByte p 2 s).getLsbD j
      = recordBit p (0 + j) s := flagByte_getLsbD p 0 s j h
    _ = recordBit p j s := by rw [Nat.zero_add]
    _ = readBt p ⟨j, by omega⟩ s := recordBit_of_lt_nflags p _ hflag

/-- Bit `j` of byte 3 stands for flag `8 + j`, if there is one (R45). -/
theorem recordByte_three_getLsbD (p : Player) (s : State) {j : Nat} (h : j < 8) :
    (recordByte p 3 s).getLsbD j = recordBit p (8 + j) s :=
  flagByte_getLsbD p 8 s j h

/-- A bit of byte 3 that holds no flag is 0, and so is every bit beyond the byte (R48). -/
theorem recordByte_three_padding (p : Player) (s : State) {j : Nat} (h : s.build.variant.nflags < j + 9) :
    (recordByte p 3 s).getLsbD j = false := by
  by_cases hj : j < 8
  · rw [recordByte_three_getLsbD p s hj]
    exact recordBit_of_nflags_le p (by omega)
  · exact BitVec.getLsbD_of_ge _ _ (by omega)

/-- Settles O32: bytes 0 and 1 are the axes; each bit of bytes 2 and 3 is a flag the build has, or padding. -/
theorem recordHoldsTheRegisters : Obligations.RecordHoldsTheRegisters := by
  intro p s
  refine ⟨rfl, rfl, fun j h => recordByte_two_getLsbD p s h, fun j h hflag => ?_,
    fun j h => recordByte_three_padding p s h⟩
  rw [recordByte_three_getLsbD p s (by omega)]
  exact recordBit_of_lt_nflags p _ (by omega)

/-! ### The word a step performs -/

theorem objection_eq_none {s : State} {i : Instr} (w : EventWord) (hv : i.variantOk s.build = true)
    (hf : i.flagOk s.build = true) (hc : i.feedOk s.feed = true) : objection s w i = none := by
  simp [objection, hv, hf, hc]

/-- The word of an operation that the build and the feed accept is admitted as that operation (R58 to R62). -/
theorem admitWord_ok {s : State} {w : EventWord} {i : Instr} (hd : decode w = .ok i)
    (hv : i.variantOk s.build = true) (hf : i.flagOk s.build = true) (hc : i.feedOk s.feed = true) :
    admitWord s w = .ok i := by
  simp [admitWord, hd, objection_eq_none w hv hf hc]

theorem step_of_admitWord_ok {s : State} {w : EventWord} {rest : List EventWord} {i : Instr}
    (hb : s.build.wf = true) (hs : s.script = w :: rest) (h : admitWord s w = .ok i) :
    step s = exec i { s with script := rest } := by
  simp [step, hb, hs, h]

theorem step_of_script_nil {s : State} (hb : s.build.wf = true) (hs : s.script = []) :
    step s = exec (freeTick s) s := by
  simp [step, hb, hs]

theorem freeTick_eq_ite (s : State) : freeTick s = if s.build.variant = .gpio then .tickG else .tickX := by
  cases hv : s.build.variant <;> simp [freeTick, hv]

/-- Settles O54: an admitted word runs as the operation it decodes to, and no word as a free tick. -/
theorem stepRunsTheNextWord : Obligations.StepRunsTheNextWord := by
  constructor
  · intro s w rest i hb hs hd hv hf hc
    exact step_of_admitWord_ok hb hs (admitWord_ok hd hv hf hc)
  · intro s hb hs
    rw [step_of_script_nil hb hs, freeTick_eq_ite]

end Sys2Proof.Machine

/-! PROOFS of the statements on event words (spec/30_encoding.md): what the decoder answers, said once, and from it the
round trips (O50, O51), the row a word selects (O52), the reserved words (O53) and the words of the vectors (O56). -/

namespace Sys2Proof

/-! ### The table of operations -/

theorem row_mem_opcodeTable (i : Instr) : i.row ∈ opcodeTable := by
  cases i <;> simp [opcodeTable, Instr.row]

theorem opcodeTable_ops : opcodeTable.map (fun r => r.op.toNat) =
    [0x00, 0x01, 0x10, 0x11, 0x12, 0x13, 0x14, 0x15, 0x16, 0x20, 0x21, 0x22, 0x23, 0x24, 0x25, 0x26, 0x30, 0x31, 0x32,
      0x33, 0x34, 0x35, 0x36, 0x37, 0x38, 0x40, 0x41, 0x42, 0x43, 0x44] := rfl

/-- A row is known by its `op` (R58). -/
theorem row_eq_of_op_eq : ∀ r ∈ opcodeTable, ∀ q ∈ opcodeTable, r.op = q.op → r = q := by decide

/-- `op` is the `op` of a row. -/
def IsOp (op : Byte) : Prop := ∃ r ∈ opcodeTable, r.op = op

theorem isOp_row (i : Instr) : IsOp i.row.op := ⟨i.row, row_mem_opcodeTable i, rfl⟩

/-! ### What the decoder answers -/

/-- `op`, `a` and `d` are the fields of the word of `i`, which is well formed. -/
structure WordOf (i : Instr) (op a : Byte) (d : Half) : Prop where
  op : i.row.op = op
  fieldA : i.fieldA = a
  fieldD : i.fieldD = d
  wf : i.wf = true

theorem WordOf.isOp {i : Instr} {op a : Byte} {d : Half} (h : WordOf i op a d) : IsOp op := h.op ▸ isOp_row i

/-- What the decoder can answer to the fields `op`, `a`, `d`: the operation whose word they make, a name other than
`reservedOp` where `op` is in the table, and `reservedOp` where it is not (R61). -/
inductive Decoded (op a : Byte) (d : Half) : Except BadWord Instr → Prop
  | ok {i : Instr} (h : WordOf i op a d) : Decoded op a d (.ok i)
  | named {e : BadWord} (hop : IsOp op) (he : e ≠ .reservedOp) : Decoded op a d (.error e)
  | reserved (hop : ¬ IsOp op) : Decoded op a d (.error .reservedOp)

theorem decLine_named {a : Byte} {e : BadWord} (h : decLine a = .error e) : e ≠ .reservedOp := by
  unfold decLine at h; split at h <;> cases h; decide

theorem decChip_named {a : Byte} {e : BadWord} (h : decChip a = .error e) : e ≠ .reservedOp := by
  unfold decChip at h; split at h <;> cases h; decide

theorem decPlayer_named {a : Byte} {e : BadWord} (h : decPlayer a = .error e) : e ≠ .reservedOp := by
  unfold decPlayer at h; split at h <;> cases h; decide

theorem decFlag_named {d : Half} {e : BadWord} (h : decFlag d = .error e) : e ≠ .reservedOp := by
  unfold decFlag at h; split at h <;> cases h; decide

theorem decIndex_named {d : Half} {e : BadWord} (h : decIndex d = .error e) : e ≠ .reservedOp := by
  unfold decIndex at h; split at h <;> cases h; decide

theorem decAxis_named {d : Half} {e : BadWord} (h : decAxis d = .error e) : e ≠ .reservedOp := by
  unfold decAxis at h; repeat' split at h
  all_goals cases h
  decide

section
variable {op a : Byte} {d : Half}

theorem zeroField_decoded {n : Nat} {x : BitVec n} {i : Instr} (hop : IsOp op) (h : x = 0 → WordOf i op a d) :
    Decoded op a d (zeroField x i) := by
  unfold zeroField
  split
  · exact .ok (h ‹_›)
  · exact .named hop (by decide)

theorem decPlain_decoded {i : Instr} (h : WordOf i op 0 0) : Decoded op a d (decPlain i a d) := by
  unfold decPlain
  split
  · subst a
    exact zeroField_decoded h.isOp (by rintro rfl; exact h)
  · exact .named h.isOp (by decide)

theorem decOnLine_decoded {f : Line → Instr} (h : ∀ l, WordOf (f l) op (BitVec.ofNat 8 l.val) 0) :
    Decoded op a d (decOnLine f a d) := by
  unfold decOnLine
  cases hl : decLine a with
  | ok l => exact zeroField_decoded (h l).isOp (by rintro rfl; exact decLine_ok hl ▸ h l)
  | error e => exact .named (h 0).isOp (decLine_named hl)

theorem decOnChip_decoded {f : Chip → Instr} (h : ∀ c, WordOf (f c) op (BitVec.ofNat 8 c.val) 0) :
    Decoded op a d (decOnChip f a d) := by
  unfold decOnChip
  cases hc : decChip a with
  | ok c => exact zeroField_decoded (h c).isOp (by rintro rfl; exact decChip_ok hc ▸ h c)
  | error e => exact .named (h 0).isOp (decChip_named hc)

theorem decChipData_decoded {f : Chip → Half → Instr} (h : ∀ c, WordOf (f c d) op (BitVec.ofNat 8 c.val) d) :
    Decoded op a d (decChipData f a d) := by
  unfold decChipData
  cases hc : decChip a with
  | ok c => exact .ok (decChip_ok hc ▸ h c)
  | error e => exact .named (h 0).isOp (decChip_named hc)

theorem decPlayerWith_decoded {α : Type} {g : Half → Except BadWord α} {f : Player → α → Instr}
    (x₀ : α) (hop : (f 0 x₀).row.op = op) (hg : ∀ e, g d = .error e → e ≠ .reservedOp)
    (h : ∀ p x, g d = .ok x → WordOf (f p x) op (BitVec.ofNat 8 p.val) d) :
    Decoded op a d (decPlayerWith g f a d) := by
  have hi : IsOp op := hop ▸ isOp_row _
  unfold decPlayerWith
  cases hp : decPlayer a with
  | ok p =>
    cases hx : g d with
    | ok x => exact .ok (decPlayer_ok hp ▸ h p x hx)
    | error e => exact .named hi (hg e hx)
  | error e => exact .named hi (decPlayer_named hp)

end

theorem op_eq_of_toNat {i : Instr} {op : Byte} {n : Nat} (h : op.toNat = n) (hi : i.row.op.toNat = n := by rfl) :
    i.row.op = op :=
  BitVec.eq_of_toNat_eq (hi.trans h.symm)

theorem isOp_of_toNat (i : Instr) {op : Byte} {n : Nat} (h : op.toNat = n) (hi : i.row.op.toNat = n := by rfl) :
    IsOp op :=
  op_eq_of_toNat h hi ▸ isOp_row i

theorem fieldA_adv_append (a : Byte) (d : Half) : (Instr.adv (a ++ d)).fieldA = a :=
  (BitVec.extractLsb'_append_eq_of_le (Nat.le_refl 16)).trans BitVec.extractLsb'_eq_self

theorem fieldD_adv_append (a : Byte) (d : Half) : (Instr.adv (a ++ d)).fieldD = d :=
  (BitVec.extractLsb'_append_eq_of_add_le (Nat.le_refl 16)).trans BitVec.extractLsb'_eq_self

/-- The one case analysis over the rows of the decoder, one case per form of operands. -/
theorem decodeFields_decoded (op a : Byte) (d : Half) : Decoded op a d (decodeFields op a d) := by
  unfold decodeFields
  split
  case h_1 hop =>
    split
    · exact .named (isOp_of_toNat (.adv 1) hop) (by decide)
    · rename_i hn
      exact .ok ⟨op_eq_of_toNat hop, fieldA_adv_append a d, fieldD_adv_append a d, by simpa [Instr.wf] using hn⟩
  case h_2 hop | h_9 hop | h_16 hop | h_22 hop | h_23 hop | h_28 hop | h_29 hop | h_30 hop =>
    exact decPlain_decoded ⟨op_eq_of_toNat hop, rfl, rfl, rfl⟩
  case h_3 hop | h_4 hop | h_5 hop | h_6 hop | h_7 hop | h_8 hop | h_24 hop | h_25 hop =>
    exact decOnLine_decoded fun _ => ⟨op_eq_of_toNat hop, rfl, rfl, rfl⟩
  case h_11 hop | h_12 hop => exact decOnChip_decoded fun _ => ⟨op_eq_of_toNat hop, rfl, rfl, rfl⟩
  case h_10 hop | h_13 hop => exact decChipData_decoded fun _ => ⟨op_eq_of_toNat hop, rfl, rfl, rfl⟩
  case h_14 hop =>
    have hi := isOp_of_toNat (.xInit 0) hop
    cases hc : decChip a with
    | ok c =>
      by_cases hd : d = 0xFFFF
      · simp only [hd, if_true]
        exact .ok ⟨op_eq_of_toNat hop, decChip_ok hc, rfl, rfl⟩
      · simp only [hd, if_false]
        exact .named hi (by decide)
    | error e => exact .named hi (decChip_named hc)
  case h_15 hop =>
    exact zeroField_decoded (isOp_of_toNat (.busf d) hop) fun ha => ⟨op_eq_of_toNat hop, ha.symm, rfl, rfl⟩
  case h_17 hop | h_18 hop =>
    exact decPlayerWith_decoded .neg (op_eq_of_toNat hop) (fun _ => decAxis_named)
      fun _ _ hx => ⟨op_eq_of_toNat hop, rfl, decAxis_ok hx, rfl⟩
  case h_19 hop | h_20 hop =>
    exact decPlayerWith_decoded 0 (op_eq_of_toNat hop) (fun _ => decFlag_named)
      fun _ _ hx => ⟨op_eq_of_toNat hop, rfl, decFlag_ok hx, rfl⟩
  case h_21 hop =>
    exact decPlayerWith_decoded 0 (op_eq_of_toNat hop) (fun _ he => nomatch he)
      fun _ _ hx => ⟨op_eq_of_toNat hop, rfl, Except.ok.inj hx.symm, rfl⟩
  case h_26 hop =>
    exact decPlayerWith_decoded 0 (op_eq_of_toNat hop) (fun _ => decIndex_named)
      fun _ _ hx => ⟨op_eq_of_toNat hop, rfl, decIndex_ok hx, rfl⟩
  case h_27 hop =>
    have hi := isOp_of_toNat (.rdr 0) hop
    cases hp : decPlayer a with
    | ok p => exact zeroField_decoded hi fun hd => ⟨op_eq_of_toNat hop, decPlayer_ok hp, hd.symm, rfl⟩
    | error e => exact .named hi (decPlayer_named hp)
  case h_31 =>
    refine .reserved ?_
    rintro ⟨r, hr, rfl⟩
    have h := List.mem_map_of_mem (f := fun r => r.op.toNat) hr
    simp_all [opcodeTable_ops]

/-- What the decoder can answer, by the fields of the word. -/
theorem decode_decoded (w : EventWord) : Decoded (fieldOp w) (fieldA w) (fieldD w) (decode w) :=
  decodeFields_decoded _ _ _

/-! ### The round trips -/

theorem wordOf_of_decode {w : EventWord} {i : Instr} (h : decode w = .ok i) :
    WordOf i (fieldOp w) (fieldA w) (fieldD w) := by
  have hw := decode_decoded w
  rw [h] at hw
  cases hw with
  | ok hi => exact hi

/-- Settles O51: the fields of the word are those of the operation, and a word is its fields. -/
theorem encodeOfDecode : Obligations.EncodeOfDecode := by
  intro w i h
  obtain ⟨hop, ha, hd, hwf⟩ := wordOf_of_decode h
  refine ⟨?_, hwf⟩
  rw [encode, hop, ha, hd, assemble_fields]

theorem decOnLine_ofNat (f : Line → Instr) (l : Line) : decOnLine f (BitVec.ofNat 8 l.val) 0 = .ok (f l) := by
  simp [decOnLine, decLine_ofNat, zeroField]

theorem decOnChip_ofNat (f : Chip → Instr) (c : Chip) : decOnChip f (BitVec.ofNat 8 c.val) 0 = .ok (f c) := by
  simp [decOnChip, decChip_ofNat, zeroField]

theorem decChipData_ofNat (f : Chip → Half → Instr) (c : Chip) (d : Half) :
    decChipData f (BitVec.ofNat 8 c.val) d = .ok (f c d) := by
  simp [decChipData, decChip_ofNat]

theorem decPlayerWith_ofNat {α : Type} {g : Half → Except BadWord α} {d : Half} {x : α} (f : Player → α → Instr)
    (p : Player) (h : g d = .ok x) : decPlayerWith g f (BitVec.ofNat 8 p.val) d = .ok (f p x) := by
  simp [decPlayerWith, decPlayer_ofNat, h]

/-- Settles O50: each form of operands is read back from its fields. -/
theorem decodeOfEncode : Obligations.DecodeOfEncode := by
  intro i hwf
  rw [encode, decode_assemble]
  cases i with
  | adv n =>
    show (if _ ++ _ = (0 : BitVec 24) then _ else _) = _
    have hn : n ≠ 0 := by simpa [Instr.wf] using hwf
    simp only [Instr.fieldA, Instr.fieldD, count_fields, if_neg hn]
  | pinL l | pinH l | gFall l | gRise l | gConfF l | gConfR l | maplR l | maplP l => exact decOnLine_ofNat _ l
  | irq c | xIrq c => exact decOnChip_ofNat _ c
  | port c v | xConf c v => exact decChipData_ofNat _ c v
  | setaxX p v | setaxY p v => exact decPlayerWith_ofNat _ p (decAxis_toByte v)
  | setbt0 p k | setbt1 p k => exact decPlayerWith_ofNat _ p (decFlag_ofNat k)
  | rdb p j => exact decPlayerWith_ofNat _ p (decIndex_ofNat j)
  | mapw p w => exact decPlayerWith_ofNat _ p rfl
  | xInit c => simp [decodeFields, Instr.row, Instr.fieldA, Instr.fieldD, decChip_ofNat]
  | rdr p => simp [decodeFields, Instr.row, Instr.fieldA, Instr.fieldD, decPlayer_ofNat, zeroField]
  | busf n => rfl
  | reset | tickG | tickX | led0 | led1 | rdy0 | rdy1 | rtick => rfl

/-! ### Rows and reserved words -/

/-- Settles O53: the decoder answers `reservedOp` in one of its cases, that of an `op` outside the table. -/
theorem reservedOpsAreRejected : Obligations.ReservedOpsAreRejected := by
  intro w
  have hiff : (∀ r ∈ opcodeTable, r.op ≠ fieldOp w) ↔ ¬ IsOp (fieldOp w) := by simp [IsOp]
  rw [hiff]
  have hw := decode_decoded w
  generalize decode w = x at hw ⊢
  cases hw with
  | ok h => simp [h.isOp]
  | named hop he => simp [hop, he]
  | reserved hop => simp [hop]

theorem and_assemble (op a op' a' : Byte) (d d' : Half) :
    assemble op a d &&& assemble op' a' d' = assemble (op &&& op') (a &&& a') (d &&& d') := by
  apply BitVec.eq_of_getLsbD_eq
  intro i _
  simp only [assemble, BitVec.getLsbD_and, BitVec.getLsbD_append]
  by_cases h : i < 16
  · simp [h]
  · by_cases h' : i - 16 < 8 <;> simp [h, h']

/-- The field `d` of a row's match: all ones where the row fixes it so, else 0 (R58). -/
def Row.matchD (r : Row) : Half := if r.shape = .init then 0xFFFF else 0

theorem pattern_eq_assemble : ∀ r ∈ opcodeTable, r.pattern = assemble r.op 0 r.matchD := by decide

theorem fieldOp_mask : ∀ r ∈ opcodeTable, fieldOp r.mask = BitVec.allOnes 8 := by decide

theorem line_and_mask (l : Line) {m : Byte} (hm : m = 0xE0) : BitVec.ofNat 8 l.val &&& m = 0 := by
  subst hm; fin_cases l <;> rfl

theorem bit_and_mask (p : Fin 2) {m : Byte} (hm : m = 0xFE) : BitVec.ofNat 8 p.val &&& m = 0 := by
  subst hm; fin_cases p <;> rfl

theorem axis_and_mask (v : AxisLevel) {m : Half} (hm : m = 0xFF00) : v.toByte.setWidth 16 &&& m = 0 := by
  subst hm; cases v <;> rfl

theorem flag_and_mask (k : Flag) {m : Half} (hm : m = 0xFFF0) : BitVec.ofNat 16 k.val &&& m = 0 := by
  subst hm; fin_cases k <;> rfl

theorem index_and_mask (j : ByteIndex) {m : Half} (hm : m = 0xFFFC) : BitVec.ofNat 16 j.val &&& m = 0 := by
  subst hm; fin_cases j <;> rfl

theorem and_mask_of_zero {n : Nat} (x : BitVec n) {m : BitVec n} (hm : m = 0) : x &&& m = 0 := by
  subst hm; exact BitVec.and_zero

/-- The mask leaves of the field `a` of an operation's word nothing, whatever the operand (R58). -/
theorem fieldA_and_mask (i : Instr) : i.fieldA &&& fieldA i.row.mask = 0 := by
  cases i with
  | adv n => exact and_mask_of_zero _ (by decide : fieldA 0xFF000000 = 0)
  | pinL l | pinH l | gFall l | gRise l | gConfF l | gConfR l | maplR l | maplP l =>
    exact line_and_mask l (by decide : fieldA 0xFFE0FFFF = 0xE0)
  | port c _ | xConf c _ | mapw c _ => exact bit_and_mask c (by decide : fieldA 0xFFFE0000 = 0xFE)
  | irq c | xIrq c | xInit c | rdr c => exact bit_and_mask c (by decide : fieldA 0xFFFEFFFF = 0xFE)
  | setaxX p _ | setaxY p _ => exact bit_and_mask p (by decide : fieldA 0xFFFEFF00 = 0xFE)
  | setbt0 p _ | setbt1 p _ => exact bit_and_mask p (by decide : fieldA 0xFFFEFFF0 = 0xFE)
  | rdb p _ => exact bit_and_mask p (by decide : fieldA 0xFFFEFFFC = 0xFE)
  | reset | tickG | busf _ | tickX | led0 | led1 | rdy0 | rdy1 | rtick => exact BitVec.zero_and

/-- The mask leaves of the field `d` what the row fixes (R58). -/
theorem fieldD_and_mask (i : Instr) : i.fieldD &&& fieldD i.row.mask = i.row.matchD := by
  cases i with
  | adv n => exact and_mask_of_zero _ (by decide : fieldD 0xFF000000 = 0)
  | port _ d | xConf _ d | mapw _ d => exact and_mask_of_zero d (by decide : fieldD 0xFFFE0000 = 0)
  | busf n => exact and_mask_of_zero n (by decide : fieldD 0xFFFF0000 = 0)
  | setaxX _ v | setaxY _ v => exact axis_and_mask v (by decide : fieldD 0xFFFEFF00 = 0xFF00)
  | setbt0 _ k | setbt1 _ k => exact flag_and_mask k (by decide : fieldD 0xFFFEFFF0 = 0xFFF0)
  | rdb _ j => exact index_and_mask j (by decide : fieldD 0xFFFEFFFC = 0xFFFC)
  | xInit _ => exact (by decide : 0xFFFF &&& fieldD 0xFFFEFFFF = 0xFFFF)
  | _ => exact BitVec.zero_and

/-- The word of an operation matches its row (R58). -/
theorem encode_and_mask (i : Instr) : encode i &&& i.row.mask = i.row.pattern := by
  have hi := row_mem_opcodeTable i
  calc encode i &&& i.row.mask
      = assemble (i.row.op &&& fieldOp i.row.mask) (i.fieldA &&& fieldA i.row.mask)
          (i.fieldD &&& fieldD i.row.mask) := by rw [← and_assemble, assemble_fields, encode]
    _ = assemble i.row.op 0 i.row.matchD := by
      rw [fieldOp_mask _ hi, BitVec.and_allOnes, fieldA_and_mask, fieldD_and_mask]
    _ = i.row.pattern := (pattern_eq_assemble _ hi).symm

/-- A word that matches a row has the row's `op` (R58). -/
theorem op_of_match {w : EventWord} {r : Row} (hr : r ∈ opcodeTable) (h : w &&& r.mask = r.pattern) :
    r.op = fieldOp w :=
  calc r.op = fieldOp (w &&& r.mask) := by rw [h, pattern_eq_assemble r hr, fieldOp_assemble]
    _ = fieldOp w &&& fieldOp r.mask := BitVec.extractLsb'_and
    _ = fieldOp w := by rw [fieldOp_mask r hr, BitVec.and_allOnes]

/-- Settles O52: the word matches its operation's row, and a row it matches has its `op`. -/
theorem decodedWordMatchesOneRow : Obligations.DecodedWordMatchesOneRow := by
  intro w i h
  obtain ⟨hw, -⟩ := encodeOfDecode w i h
  refine ⟨row_mem_opcodeTable i, fun r hr => ⟨fun hm => ?_, ?_⟩⟩
  · exact row_eq_of_op_eq r hr i.row (row_mem_opcodeTable i) ((op_of_match hr hm).trans (wordOf_of_decode h).op.symm)
  · rintro rfl
    rw [← hw, encode_and_mask]

/-- Settles O56: fourteen words, decoded. -/
theorem vectorWordsDecode : Obligations.VectorWordsDecode := by
  unfold Obligations.VectorWordsDecode
  decide

end Sys2Proof

/-! PROOFS of the statements on the tables and packed forms (spec/30_encoding.md): the line map (O10, O11), `WORD_MAP`
(O12) and the pending entries (O57); and of the words a step refuses (O55) and the pseudo-operations (O58). -/

namespace Sys2Proof

/-! ### The line map -/

/-- The controls of R54: every direction, and every flag below `n`. -/
theorem mem_controls {n : Nat} {u : LineUse} :
    u ∈ controls n ↔ (∃ p d, u = .dir p d) ∨ ∃ (p : Player) (k : Flag), k.val < n ∧ u = .btn p k := by
  cases u with
  | dir p d => fin_cases p <;> cases d <;> simp [controls]
  | btn p k => fin_cases p <;> simp [controls]
  | reserved => simp [controls]

theorem count_toList_eq_one_iff {α : Type} [DecidableEq α] {n : Nat} (m : Vector α n) (u : α) :
    m.toList.count u = 1 ↔ ∃! l : Fin n, m[l] = u := by
  have h : (Finset.univ.filter fun l : Fin n => m[l] = u).card = m.toList.count u := by
    simpa [List.Vector.get] using
      Fin.card_filter_univ_eq_vector_get_eq_count u (⟨m.toList, m.length_toList⟩ : List.Vector α n)
  rw [← h, Finset.card_eq_one, Finset.singleton_iff_unique_mem]
  simp

theorem forall_mem_toList_iff {α : Type} {n : Nat} (m : Vector α n) (p : α → Prop) :
    (∀ u ∈ m.toList, p u) ↔ ∀ l : Fin n, p m[l] := by
  simp only [Vector.mem_toList_iff, Vector.forall_mem_iff_forall_getElem]
  exact ⟨fun h l => h l.val l.isLt, fun h i hi => h ⟨i, hi⟩⟩

theorem lineMapWf_iff_controls (m : Vector LineUse 29) (n : Nat) : lineMapWf m n = true ↔
    (∀ u ∈ controls n, ∃! l : Line, m[l] = u) ∧ ∀ l : Line, m[l] = .reserved ∨ m[l] ∈ controls n := by
  simp only [lineMapWf, Bool.and_eq_true, List.all_eq_true, beq_iff_eq, count_toList_eq_one_iff, Bool.or_eq_true,
    List.contains_iff_mem, forall_mem_toList_iff]

/-- A line holds no control but those of R54 exactly when it carries no flag from `n` on. -/
theorem reserved_or_mem_controls_iff {n : Nat} {u : LineUse} :
    u = .reserved ∨ u ∈ controls n ↔ ∀ (p : Player) (k : Flag), u = .btn p k → k.val < n := by
  cases u <;> simp [mem_controls]

/-- The check of R54, control by control. -/
theorem lineMapWf_iff (m : Vector LineUse 29) (n : Nat) : lineMapWf m n = true ↔
    (∀ p d, ∃! l : Line, m[l] = .dir p d) ∧
    (∀ (p : Player) (k : Flag), k.val < n → ∃! l : Line, m[l] = .btn p k) ∧
    ∀ (p : Player) (k : Flag) (l : Line), m[l] = .btn p k → k.val < n := by
  rw [lineMapWf_iff_controls]
  simp only [reserved_or_mem_controls_iff]
  constructor
  · rintro ⟨huniq, hflag⟩
    exact ⟨fun p d => huniq _ (mem_controls.mpr (.inl ⟨p, d, rfl⟩)),
      fun p k hk => huniq _ (mem_controls.mpr (.inr ⟨p, k, hk, rfl⟩)), fun p k l => hflag l p k⟩
  · rintro ⟨hdir, hbtn, hflag⟩
    refine ⟨fun u hu => ?_, fun l p k => hflag p k l⟩
    rcases mem_controls.mp hu with ⟨p, d, rfl⟩ | ⟨p, k, hk, rfl⟩
    · exact hdir p d
    · exact hbtn p k hk

theorem lineMapWf_of_wf {b : Build} (hv : b.variant = .gpio) (h : b.wf = true) : lineMapWf b.lineMap 9 = true := by
  simp only [Build.wf, hv, Bool.and_eq_true] at h
  exact h.2

/-- Settles O11: the check counts lines; a GPIO build that fails it is not well formed. -/
theorem lineMapCheckIsUniqueness : Obligations.LineMapCheckIsUniqueness := by
  refine ⟨lineMapWf_iff, fun s hv hm => ?_, by decide⟩
  have hb : ¬ s.build.wf = true := fun h => by simp [lineMapWf_of_wf hv h] at hm
  exact if_neg hb

theorem reference_lineMap (v : Variant) (l : Line) : (Build.reference v).lineMap[l] = lineUse l := by
  simp [Build.reference]

/-- A line below 26 is a position in its player's group (R53). -/
theorem lineUse_eq_groupUse {l : Line} {p : Player} {j : Fin 13} (hl : l.val < 26) (hp : l.val / 13 = p.val)
    (hj : l.val % 13 = j.val) : lineUse l = groupUse p j := by
  have hp' : p = ⟨l.val / 13, by omega⟩ := Fin.ext hp.symm
  have hj' : j = ⟨l.val % 13, by omega⟩ := Fin.ext hj.symm
  rw [hp', hj']
  exact dif_pos hl

/-- Settles O10: position 0 to 3 of a group is a direction, position `k + 4` is flag `k`. -/
theorem referenceLineMapIsTheFormula : Obligations.ReferenceLineMapIsTheFormula := by
  intro v l
  rw [reference_lineMap]
  refine ⟨fun h => dif_neg (by omega), fun p hp hl => ?_⟩
  refine ⟨lineUse_eq_groupUse (j := 0) hl hp, lineUse_eq_groupUse (j := 1) hl hp,
    lineUse_eq_groupUse (j := 2) hl hp, lineUse_eq_groupUse (j := 3) hl hp, fun k hk => ?_⟩
  exact lineUse_eq_groupUse (j := ⟨k.val + 4, by omega⟩) hl hp hk

/-! ### The word map -/

/-- Settles O12: bit by bit; bit `k + 4` is flag `k`. -/
theorem wordMapIsTheAssembly : Obligations.WordMapIsTheAssembly := by
  intro p w b
  match b with
  | 0 => exact ⟨rfl, rfl⟩
  | 1 => exact ⟨rfl, rfl⟩
  | 2 => exact ⟨rfl, rfl⟩
  | 3 => exact ⟨rfl, rfl⟩
  | ⟨k + 4, h⟩ => exact ⟨rfl, congrArg w.getLsbD (Nat.add_comm 4 k)⟩

end Sys2Proof

namespace Sys2Proof.Machine

/-! ### The packed forms of pending entries -/

theorem chip_bit_toNat (c : Chip) : (BitVec.ofNat 1 c.val).toNat = c.val :=
  (BitVec.toNat_ofNat _ _).trans (Nat.mod_eq_of_lt c.isLt)

theorem GEntry.pack_fields (e : GEntry) :
    e.pack % 32 = e.line.val ∧ e.pack / 32 % 2 = e.rise.toNat ∧ e.pack / 64 = e.due := by
  have hbit : (if e.rise then 32 else 0) = 32 * e.rise.toNat := by cases e.rise <;> rfl
  have hrise := Bool.toNat_le e.rise
  have hline := e.line.isLt
  rw [GEntry.pack, hbit]
  omega

theorem GEntry.unpack_pack (e : GEntry) : GEntry.unpack e.pack = some e := by
  obtain ⟨hline, hrise, hdue⟩ := e.pack_fields
  have hbit : (e.rise.toNat == 1) = e.rise := by cases e.rise <;> rfl
  have hlt : e.pack % 32 < 29 := hline ▸ e.line.isLt
  rw [GEntry.unpack, dif_pos hlt]
  simp only [hline, hrise, hdue, hbit]

/-- The payload as the number R56 gives. -/
theorem XEntry.payload_toNat (e : XEntry) : e.payload.toNat = e.chip.val * 65536 + e.snap.toNat := by
  rw [XEntry.payload, BitVec.toNat_append, chip_bit_toNat, Nat.shiftLeft_eq, Nat.mul_comm,
    ← Nat.two_pow_add_eq_or_of_lt e.snap.isLt]

theorem XEntry.ofPayload_payload (e : XEntry) : XEntry.ofPayload e.payload e.due = e := by
  have hchip : e.payload.extractLsb' 16 1 = BitVec.ofNat 1 e.chip.val :=
    (BitVec.extractLsb'_append_eq_of_le (Nat.le_refl 16)).trans BitVec.extractLsb'_eq_self
  have hsnap : e.payload.extractLsb' 0 16 = e.snap :=
    (BitVec.extractLsb'_append_eq_of_add_le (Nat.le_refl 16)).trans BitVec.extractLsb'_eq_self
  simp only [XEntry.ofPayload, hchip, hsnap, chip_bit_toNat]

/-- Settles O57: by the places of the fields in the packed numbers. -/
theorem pendingFormatsRoundTrip : Obligations.PendingFormatsRoundTrip := by
  refine ⟨fun e => ⟨e.unpack_pack, e.pack_fields⟩, fun e => ⟨e.ofPayload_payload, ?_⟩⟩
  have hsnap := e.snap.isLt
  rw [e.payload_toNat]
  omega

/-! ### The words a step refuses -/

theorem step_of_admitWord_error {s : State} {w : EventWord} {rest : List EventWord} {r : Refusal}
    (hb : s.build.wf = true) (hs : s.script = w :: rest) (h : admitWord s w = .error r) : step s = .refused r := by
  simp [step, hb, hs, h]

theorem step_of_objection {s : State} {w : EventWord} {rest : List EventWord} {i : Instr} {r : Refusal}
    (hb : s.build.wf = true) (hs : s.script = w :: rest) (hd : decode w = .ok i) (h : objection s w i = some r) :
    step s = .refused r :=
  step_of_admitWord_error hb hs (by simp [admitWord, hd, h])

/-- Nothing is objected to exactly when the build has the operation and its flag, and the feed admits it. -/
theorem objection_eq_none_iff {s : State} {w : EventWord} {i : Instr} :
    objection s w i = none ↔ i.variantOk s.build = true ∧ i.flagOk s.build = true ∧ i.feedOk s.feed = true := by
  unfold objection
  cases i.variantOk s.build <;> cases i.flagOk s.build <;> cases i.feedOk s.feed <;> simp

theorem feedOk_internal {i : Instr} (h : i.row.cls = .internal) : i.feedOk .stimulus = false := by
  simp [Instr.feedOk, h]

theorem variantOk_setbt {i : Instr} {p : Player} {k : Flag} (h : i = .setbt0 p k ∨ i = .setbt1 p k) (b : Build) :
    i.variantOk b = true := by
  rcases h with rfl | rfl <;> rfl

theorem flagOk_setbt {i : Instr} {p : Player} {k : Flag} (h : i = .setbt0 p k ∨ i = .setbt1 p k) (b : Build) :
    i.flagOk b = decide (k.val < b.variant.nflags) := by
  rcases h with rfl | rfl <;> rfl

theorem not_variantOk_of_other {i : Instr} {b : Build} (h : i.row.backend = .gpioOnly ∧ b.variant = .i2c ∨
    i.row.backend = .i2cOnly ∧ b.variant = .gpio) : i.variantOk b = false := by
  rcases h with ⟨hr, hv⟩ | ⟨hr, hv⟩ <;> simp [Instr.variantOk, hr, hv]

/-- Settles O55: each refusal is the first objection that applies. -/
theorem stepRefusesByName : Obligations.StepRefusesByName := by
  intro s w rest hb hs
  refine ⟨fun why h => step_of_admitWord_error hb hs (by simp [admitWord, h]), fun i hd => ⟨?_, ?_, ?_⟩⟩
  · intro h
    exact step_of_objection hb hs hd (by simp [objection, not_variantOk_of_other h])
  · intro p k hi hk
    exact step_of_objection hb hs hd (by simp [objection, variantOk_setbt hi, flagOk_setbt hi, hk])
  · intro hc hfeed
    have hf : i.feedOk s.feed = false := hfeed ▸ feedOk_internal hc
    refine ⟨fun hv hk => step_of_objection hb hs hd (by simp [objection, hv, hk, hf]), ?_⟩
    cases ho : objection s w i with
    | none => simp [(objection_eq_none_iff.mp ho).2.2] at hf
    | some r => exact ⟨r, step_of_objection hb hs hd ho⟩

/-! ### The pseudo-operations -/

theorem waitTicks_reference (v : Variant) (m : Nat) : waitTicks (Build.reference v) m = m * 1000 := by
  simp only [waitTicks, Build.reference]
  omega

/-- The word of ADV holds its count in the 24 bits below the `op` (R117). -/
theorem encode_adv (n : BitVec 24) : encode (.adv n) = (Instr.adv 1).row.op ++ n := by
  calc encode (.adv n) = (Instr.adv 1).row.op ++ (n.extractLsb' 16 8 ++ n.extractLsb' 0 16) := BitVec.append_assoc
    _ = (Instr.adv 1).row.op ++ n := by rw [count_fields]

theorem wordOfRow_adv {n : Nat} (h : n < 2 ^ 24) :
    wordOfRow (Instr.adv 1).row [n] = some (encode (.adv (BitVec.ofNat 24 n))) := by
  rw [encode_adv]
  exact if_pos h

theorem checked_encode {i : Instr} (h : i.wf = true) : checked (some (encode i)) = some (.word (encode i)) := by
  simp [checked, decodeOfEncode i h]

theorem lineOf_waitms (b : Build) (m : Nat) :
    lineOf b "WAITMS".toList [m] = checked (wordOfRow (Instr.adv 1).row [waitTicks b m]) :=
  if_pos rfl

theorem lineOf_expect (b : Build) (p : Player) (b0 b1 b2 b3 : Byte) :
    lineOf b "EXPECT".toList [p.val, b0.toNat, b1.toNat, b2.toNat, b3.toNat] = some (.expect p [b0, b1, b2, b3]) := by
  simp [lineOf, Nat.le_of_lt_succ p.isLt, b0.isLt, b1.isLt, b2.isLt, b3.isLt]

theorem adv_ofNat_wf {n : Nat} (hpos : 0 < n) (hlt : n < 2 ^ 24) : (Instr.adv (BitVec.ofNat 24 n)).wf = true := by
  have hn : BitVec.ofNat 24 n ≠ 0 := fun h => by
    have h := congrArg BitVec.toNat h
    rw [BitVec.toNat_ofNat, Nat.mod_eq_of_lt hlt] at h
    exact hpos.ne' h
  simpa [Instr.wf] using hn

/-- Settles O58: the operands of WAITMS make the word of ADV, those of EXPECT name the player of RDR. -/
theorem pseudoOperationsExpand : Obligations.PseudoOperationsExpand := by
  constructor
  · intro v m hm hlt
    rw [lineOf_waitms, waitTicks_reference, wordOfRow_adv hlt]
    exact checked_encode (adv_ofNat_wf (Nat.mul_pos hm (by decide)) hlt)
  · intro b p b0 b1 b2 b3
    rw [lineOf_expect]
    rfl

end Sys2Proof.Machine

/-! PROOF of the invariant that rests on the line map (spec/30_encoding.md R54, R59): the flags a build does not have
stay 0 (O45). -/

namespace Sys2Proof.Machine

/-! ### The operation a step performs -/

theorem objection_of_admitWord {s : State} {w : EventWord} {i : Instr} (h : admitWord s w = .ok i) :
    objection s w i = none := by
  unfold admitWord at h
  split at h
  · cases h
  · split at h
    · cases h
    · cases h; assumption

theorem freeTick_flagOk (s : State) (b : Build) : (freeTick s).flagOk b = true := by
  cases hv : s.build.variant <;> simp [freeTick, hv, Instr.flagOk]

/-- A step of a well-formed build performs one operation that the build has, with a flag that the build has. -/
theorem step_exec {s t : State} (h : step s = .next t) :
    s.build.wf = true ∧ ∃ words i, i.variantOk s.build = true ∧ i.flagOk s.build = true ∧
      exec i { s with script := words } = .next t := by
  unfold step at h
  split at h
  · refine ⟨‹_›, ?_⟩
    split at h
    · exact ⟨s.script, freeTick s, freeTick_variantOk s, freeTick_flagOk s _, h⟩
    · rename_i w rest _
      split at h
      · cases h
      · obtain ⟨hv, hf, -⟩ := objection_eq_none_iff.mp (objection_of_admitWord ‹_›)
        exact ⟨rest, _, hv, hf, h⟩
  · cases h

/-! ### The padding flags -/

theorem endTick_bt (s : State) : (endTick s).block.bt = s.block.bt := by rw [endTick_block]

theorem paddingOk_of_i2c {s : State} (h : s.build.variant = .i2c) : PaddingOk s := by
  intro p k hk
  rw [h] at hk
  exact absurd k.isLt (Nat.not_lt.mpr hk)

/-- A GPIO build whose line map and whose flags keep to the nine that R12 gives it. -/
structure NineFlags (s : State) : Prop where
  gpio : s.build.variant = .gpio
  lines : ∀ (p : Player) (k : Flag) (l : Line), lineMapAt l s = .btn p k → k.val < s.build.variant.nflags
  padding : PaddingOk s

theorem nineFlags_of_wf {s : State} (hv : s.build.variant = .gpio) (hb : s.build.wf = true) (h : PaddingOk s) :
    NineFlags s := by
  obtain ⟨-, -, hflag⟩ := (lineMapWf_iff _ _).mp (lineMapWf_of_wf hv hb)
  exact ⟨hv, by rw [hv]; exact hflag, h⟩

namespace NineFlags

variable {s : State}

theorem congr {t : State} (h : NineFlags s) (hb : t.build = s.build) (hr : t.block.bt = s.block.bt) : NineFlags t := by
  obtain ⟨hv, hl, hp⟩ := h
  refine ⟨by rw [hb, hv], ?_, ?_⟩
  · simpa [lineMapAt, hb] using hl
  · simpa [PaddingOk, readBt, hb, hr] using hp

theorem writeBt (p : Player) {k : Flag} (v : Bool) (hk : k.val < s.build.variant.nflags) (h : NineFlags s) :
    NineFlags (writeBt p k v s) := by
  refine ⟨h.gpio, h.lines, fun q j hj => ?_⟩
  have hne : k ≠ j := by rintro rfl; exact absurd hk (Nat.not_lt.mpr hj)
  rw [readBt_writeBt, if_neg (fun e => hne e.2)]
  exact h.padding q j hj

theorem mapPressed (l : Line) (h : NineFlags s) : NineFlags (mapPressed l s) := by
  rcases mapPressed_cases l s with ⟨p, v, e⟩ | ⟨p, v, e⟩ | ⟨p, k, hl, e⟩ | e <;> rw [e]
  · exact h.congr rfl rfl
  · exact h.congr rfl rfl
  · exact h.writeBt p true (h.lines p k l hl)
  · exact h

theorem mapReleased (l : Line) (h : NineFlags s) : NineFlags (mapReleased l s) := by
  rcases mapReleased_cases l s with ⟨p, v, e⟩ | ⟨p, v, e⟩ | ⟨p, k, hl, e⟩ | e <;> rw [e]
  · exact h.congr rfl rfl
  · exact h.congr rfl rfl
  · exact h.writeBt p false (h.lines p k l hl)
  · exact h

theorem gConfirm (l : Line) (rise : Bool) (h : NineFlags s) : NineFlags (gConfirm l rise s) := by
  rcases gConfirm_cases l rise s with ⟨_, e⟩ | ⟨_, _, e⟩ | ⟨_, _, e⟩ <;> rw [e]
  · exact h
  · exact (h.mapReleased l).congr rfl rfl
  · exact (h.mapPressed l).congr rfl rfl

theorem scheduleG (l : Line) (rise : Bool) (h : NineFlags s) : NineFlags (scheduleG l rise s) :=
  h.congr (scheduleG_build l rise s) (scheduleG_sameRegs l rise s).2.2

theorem confirmPhaseG (h : NineFlags s) : NineFlags (confirmPhaseG s.block.pendg s) :=
  confirmPhaseG_preserves (fun _ _ h => h.congr (by simp) (by simp))
    (fun _ _ _ h _ _ => (h.congr (by simp) (by simp)).gConfirm _ _) gConfirm_pendg _ s rfl h

theorem detectPhase (h : NineFlags s) : NineFlags (detectPhase s) := by
  refine foldl_preserves _ (fun l t h => ?_) _ s h
  rcases detectLine_cases t l with ⟨_, e⟩ | ⟨_, e⟩ <;> rw [e]
  · exact h
  · exact (h.scheduleG l _).congr rfl rfl

theorem tickGpio (h : NineFlags s) : NineFlags (tickGpio s) := by
  have hbody : NineFlags (tickBodyG s) := by
    unfold tickBodyG
    split
    · exact h.confirmPhaseG.detectPhase
    · exact h.congr rfl rfl
  exact hbody.congr (endTick_build _) (endTick_bt _)

theorem tick (h : NineFlags s) : NineFlags (tick s) := by
  rw [tick_gpio h.gpio]
  exact h.tickGpio

theorem resetBlock (h : NineFlags s) : NineFlags (resetBlock s) :=
  ⟨h.gpio, h.lines, fun p k _ => by simp [readBt, Block.reset]⟩

/-- The operations of a GPIO build set no flag from the ninth on. -/
theorem exec {t : State} {i : Instr} (h : NineFlags s) (hv : i.variantOk s.build = true)
    (hf : i.flagOk s.build = true) (he : exec i s = .next t) : NineFlags t := by
  cases i with
  | adv n => cases he; exact advance_preserves (fun _ hu => hu.tick) _ s h
  | tickG => cases he; exact h.tickGpio
  | reset => cases he; exact h.resetBlock
  | gFall l | gRise l => cases he; exact h.scheduleG l _
  | gConfF l | gConfR l => cases he; exact h.gConfirm l _
  | maplP l => cases he; exact h.mapPressed l
  | maplR l => cases he; exact h.mapReleased l
  | setbt0 p k | setbt1 p k => cases he; exact h.writeBt p _ (of_decide_eq_true hf)
  | port | irq | xIrq | xConf | xInit | busf | tickX | mapw =>
    have hx := variant_of_i2cOnly rfl hv
    rw [h.gpio] at hx
    cases hx
  | setaxX | setaxY | led0 | led1 | pinL | pinH | rdr | rdy0 | rdy1 => cases he; exact h.congr rfl rfl
  | rdb p k => rw [exec_rdb] at he; cases he; exact h.congr rfl rfl
  | rtick => cases he; exact h.congr (report_build s) (by rw [report_block])

end NineFlags

/-- Settles O45: an I2C build has all twelve flags; a GPIO build is well formed, so its line map names nine. -/
theorem paddingStaysZero : Obligations.PaddingStaysZero := by
  intro s t hs h
  obtain ⟨hb, words, i, hv, hf, he⟩ := step_exec h
  cases hvar : s.build.variant with
  | gpio => exact ((nineFlags_of_wf (s := { s with script := words }) hvar hb hs).exec hv hf he).padding
  | i2c =>
    obtain ⟨hbuild, -⟩ := operationsLeaveBuildAndScript i _ t he
    exact paddingOk_of_i2c (by rw [hbuild]; exact hvar)

end Sys2Proof.Machine

/-! PROOFS of the statements on the GPIO engine (spec/40_gpio_debounce.md): an armed tick as confirmations followed by
schedulings, said once as an equation, and from it the statements on ticks (O16, O17, O18) and on the operations they
perform (O13, O14, O15); then the report phase of both ticks (O59). -/

namespace Sys2Proof.Machine

/-! ### The mapper as one write, named by the use of the line -/

/-- The level an axis takes for a direction line: neutral when the line is high, that is released (R102, R103). -/
def lineAxis (d : Direction) (high : Bool) : AxisLevel :=
  if high then .mid else
    match d with
    | .up | .left => .neg
    | .down | .right => .pos

/-- The write for a line of this use at this level. -/
def writeUse (use : LineUse) (high : Bool) (s : State) : State :=
  match use with
  | .dir p d => if vertical d then writeAy p (lineAxis d high) s else writeAx p (lineAxis d high) s
  | .btn p k => writeBt p k (!high) s
  | .reserved => s

/-- The mapper for line `l` at this level: MAPL.R when high, MAPL.P when low. -/
def mapLine (l : Line) (high : Bool) (s : State) : State := writeUse (lineMapAt l s) high s

theorem mapReleased_eq_mapLine (l : Line) (s : State) : mapReleased l s = mapLine l true s := by
  unfold mapReleased mapLine
  rcases lineMapAt l s with ⟨p, d⟩ | ⟨p, k⟩ | _
  · cases d <;> rfl
  · rfl
  · rfl

theorem mapPressed_eq_mapLine (l : Line) (s : State) : mapPressed l s = mapLine l false s := by
  unfold mapPressed mapLine
  rcases lineMapAt l s with ⟨p, d⟩ | ⟨p, k⟩ | _
  · cases d <;> rfl
  · rfl
  · rfl

theorem exec_mapLine (l : Line) (high : Bool) (s : State) :
    exec (if high then .maplR l else .maplP l) s = .next (mapLine l high s) := by
  cases high
  · exact congrArg Host.Outcome.next (mapPressed_eq_mapLine l s)
  · exact congrArg Host.Outcome.next (mapReleased_eq_mapLine l s)

/-- R70: the mapper and the indicator where the level is the one the edge implies, nothing where it is not. -/
theorem gConfirm_eq (l : Line) (rise : Bool) (s : State) :
    gConfirm l rise s = if pinLevel l s = rise then setLed (!rise) (mapLine l rise s) else s := by
  rcases gConfirm_cases l rise s with ⟨hne, e⟩ | ⟨heq, rfl, e⟩ | ⟨heq, rfl, e⟩
  · rw [e, if_neg hne]
  · rw [e, if_pos heq, mapReleased_eq_mapLine]; rfl
  · rw [e, if_pos heq, mapPressed_eq_mapLine]; rfl

/-! ### What confirmations and schedulings do not read -/

/-- `PINQ <- q`, and `n` free values used: the update neither a confirmation nor a scheduling can tell. -/
def setUnread (q : Vector Bool 29) (n : Nat) (s : State) : State :=
  { s with block := { s.block with pinq := q }, choices := n }

@[simp] theorem setUnread_build (q : Vector Bool 29) (n : Nat) (s : State) : (setUnread q n s).build = s.build := rfl

@[simp] theorem setUnread_block (q : Vector Bool 29) (n : Nat) (s : State) :
    (setUnread q n s).block = { s.block with pinq := q } := rfl

@[simp] theorem setUnread_env (q : Vector Bool 29) (n : Nat) (s : State) : (setUnread q n s).env = s.env := rfl

@[simp] theorem setUnread_agent (q : Vector Bool 29) (n : Nat) (s : State) : (setUnread q n s).agent = s.agent := rfl

theorem afterPopChoice_eq_setUnread (due : Nat) (s : State) :
    ∃ n, afterPopChoice due s = setUnread s.block.pinq n s := by
  rcases afterPopChoice_cases due s with h | h
  · exact ⟨s.choices, h⟩
  · exact ⟨s.choices + 1, h⟩

theorem writeUse_setUnread (use : LineUse) (high : Bool) (q : Vector Bool 29) (n : Nat) (s : State) :
    writeUse use high (setUnread q n s) = setUnread q n (writeUse use high s) := by
  rcases use with ⟨p, d⟩ | ⟨p, k⟩ | _
  · cases d <;> rfl
  · rfl
  · rfl

theorem gConfirm_setUnread (l : Line) (rise : Bool) (q : Vector Bool 29) (n : Nat) (s : State) :
    gConfirm l rise (setUnread q n s) = setUnread q n (gConfirm l rise s) := by
  have hm : mapLine l rise (setUnread q n s) = setUnread q n (mapLine l rise s) := writeUse_setUnread _ _ q n s
  have hp : pinLevel l (setUnread q n s) = pinLevel l s := rfl
  rw [gConfirm_eq, gConfirm_eq, hm, hp]
  split <;> rfl

theorem scheduleG_setUnread (l : Line) (rise : Bool) (q : Vector Bool 29) (n : Nat) (s : State) :
    scheduleG l rise (setUnread q n s) = setUnread q n (scheduleG l rise s) := by
  have hr : hasRoom (setUnread q n s).block.pendg.length (setUnread q n s) = hasRoom s.block.pendg.length s := rfl
  unfold scheduleG
  rw [hr]
  split <;> rfl

/-! ### The confirm phase -/

/-- The confirmations of these entries, in order. -/
def confirmAll (es : List GEntry) (s : State) : State := es.foldl (fun u e => gConfirm e.line e.rise u) s

@[simp] theorem confirmAll_cons (e : GEntry) (es : List GEntry) (s : State) :
    confirmAll (e :: es) s = confirmAll es (gConfirm e.line e.rise s) := rfl

/-- The first `k` entries taken off the store and confirmed. -/
def confirmFirst (k : Nat) (s : State) : State :=
  confirmAll (s.block.pendg.take k) (setPendg (s.block.pendg.drop k) s)

theorem confirmAll_setUnread (es : List GEntry) (q : Vector Bool 29) (n : Nat) (s : State) :
    confirmAll es (setUnread q n s) = setUnread q n (confirmAll es s) := by
  induction es generalizing s with
  | nil => rfl
  | cons e es ih => rw [confirmAll_cons, gConfirm_setUnread, ih, confirmAll_cons]

/-- The free values used between confirmations do not reach them. -/
theorem confirmAll_afterPopChoice (es : List GEntry) (s : State) :
    ∃ n, es.foldl (fun u e => gConfirm e.line e.rise (afterPopChoice e.due u)) s =
      setUnread s.block.pinq n (confirmAll es s) := by
  induction es generalizing s with
  | nil => exact ⟨s.choices, rfl⟩
  | cons e es ih =>
    obtain ⟨m, hm⟩ := afterPopChoice_eq_setUnread e.due s
    obtain ⟨n, hn⟩ := ih (gConfirm e.line e.rise (afterPopChoice e.due s))
    refine ⟨n, ?_⟩
    rw [List.foldl_cons, hn, hm, gConfirm_setUnread, confirmAll_setUnread]
    rfl

/-- `t` is `s` but for the register file and the indicator. -/
def SameButRegsLed (s t : State) : Prop :=
  t = { s with block := { s.block with
    ax := t.block.ax, ay := t.block.ay, bt := t.block.bt, led := t.block.led } }

theorem SameButRegsLed.trans {s t u : State} (h : SameButRegsLed s t) (h' : SameButRegsLed t u) :
    SameButRegsLed s u := by
  unfold SameButRegsLed at *
  rw [h', h]

theorem SameButRegs.setLed {s t : State} (h : SameButRegs s t) (v : Bool) : SameButRegsLed s (setLed v t) := by
  unfold SameButRegs at h
  unfold SameButRegsLed Machine.setLed
  rw [h]

theorem gConfirm_sameButRegsLed (l : Line) (rise : Bool) (s : State) : SameButRegsLed s (gConfirm l rise s) := by
  rcases gConfirm_cases l rise s with ⟨_, e⟩ | ⟨_, _, e⟩ | ⟨_, _, e⟩ <;> rw [e]
  · rfl
  · exact (mapReleased_sameButRegs l s).setLed false
  · exact (mapPressed_sameButRegs l s).setLed true

theorem confirmAll_sameButRegsLed (es : List GEntry) (s : State) : SameButRegsLed s (confirmAll es s) :=
  foldl_preserves (P := SameButRegsLed s) _ (fun _ t h => h.trans (gConfirm_sameButRegsLed _ _ t)) es s rfl

theorem confirmFirst_eq (k : Nat) (s : State) : ∃ ax ay bt led, confirmFirst k s =
    { s with block := { s.block with pendg := s.block.pendg.drop k, ax := ax, ay := ay, bt := bt, led := led } } :=
  ⟨_, _, _, _, confirmAll_sameButRegsLed _ (setPendg _ s)⟩

/-! ### The detect phase -/

/-- The lines whose level differs from the previous tick's, ascending (R67). -/
def changedLines (s : State) : List Line := (List.finRange 29).filter fun l => pinLevel l s != pinqLevel l s

/-- G.FALL or G.RISE of these lines, by the levels of `s`, in order. -/
def scheduleEdges (s : State) (ls : List Line) (u : State) : State :=
  ls.foldl (fun u l => scheduleG l (pinLevel l s) u) u

@[simp] theorem scheduleEdges_cons (s : State) (l : Line) (ls : List Line) (u : State) :
    scheduleEdges s (l :: ls) u = scheduleEdges s ls (scheduleG l (pinLevel l s) u) := rfl

theorem scheduleEdges_setUnread (s : State) (ls : List Line) (q : Vector Bool 29) (n : Nat) (u : State) :
    scheduleEdges s ls (setUnread q n u) = setUnread q n (scheduleEdges s ls u) := by
  induction ls generalizing u with
  | nil => rfl
  | cons l ls ih => rw [scheduleEdges_cons, scheduleG_setUnread, ih, scheduleEdges_cons]

/-- Scheduling reaches the store and `OVF` only. -/
theorem scheduleG_eq (l : Line) (rise : Bool) (s : State) :
    ∃ q b, scheduleG l rise s = { s with block := { s.block with pendg := q, ovf := b } } := by
  rcases scheduleG_cases l rise s with ⟨_, e⟩ | ⟨_, e⟩ <;> rw [e]
  · exact ⟨_, s.block.ovf, rfl⟩
  · exact ⟨s.block.pendg, true, rfl⟩

theorem scheduleEdges_eq (s : State) (ls : List Line) (u : State) :
    ∃ q b, scheduleEdges s ls u = { u with block := { u.block with pendg := q, ovf := b } } := by
  induction ls generalizing u with
  | nil => exact ⟨u.block.pendg, u.block.ovf, rfl⟩
  | cons l ls ih =>
    obtain ⟨q, b, e⟩ := scheduleG_eq l (pinLevel l s) u
    obtain ⟨q', b', e'⟩ := ih (scheduleG l (pinLevel l s) u)
    exact ⟨q', b', e'.trans (by rw [e])⟩

/-- The levels `v` of these lines remembered in `q`. -/
def sampleLines (v : Vector Bool 29) (ls : List Line) (q : Vector Bool 29) : Vector Bool 29 :=
  ls.foldl (fun q (l : Line) => q.set l v[l]) q

@[simp] theorem sampleLines_cons (v : Vector Bool 29) (l : Line) (ls : List Line) (q : Vector Bool 29) :
    sampleLines v (l :: ls) q = sampleLines v ls (q.set l v[l]) := rfl

theorem getElem_sampleLines (v : Vector Bool 29) (ls : List Line) (q : Vector Bool 29) (m : Line) :
    (sampleLines v ls q)[m] = if m ∈ ls then v[m] else q[m] := by
  induction ls generalizing q with
  | nil => rfl
  | cons l ls ih =>
    rw [sampleLines_cons, ih]
    by_cases hl : l = m
    · subst hl; simp
    · have hv : ¬ l.val = m.val := fun h => hl (Fin.ext h)
      have hm : ¬ m = l := fun h => hl h.symm
      simp [hv, hm]

theorem sampleLines_finRange (v q : Vector Bool 29) : sampleLines v (List.finRange 29) q = v := by
  ext i hi
  simpa using getElem_sampleLines v (List.finRange 29) q ⟨i, hi⟩

/-- One line of the detect phase, whose edge is the one it has in `s`: `PINQ` takes its level, edge or not. -/
theorem detectLine_setUnread {s u : State} {q : Vector Bool 29} {l : Line} (hu : u.env = s.env)
    (hq : q[l] = pinqLevel l s) (n : Nat) :
    detectLine (setUnread q n u) l = setUnread (q.set l s.env.pin[l]) n
      (if pinLevel l s != pinqLevel l s then scheduleG l (pinLevel l s) u else u) := by
  have hpin : pinLevel l (setUnread q n u) = pinLevel l s := pinLevel_congr (congrArg Env.pin hu) l
  have hpinq : pinqLevel l (setUnread q n u) = pinqLevel l s := hq
  unfold detectLine
  rw [hpin, hpinq, scheduleG_setUnread]
  by_cases h : pinLevel l s = pinqLevel l s
  · have hset : q.set l s.env.pin[l] = q := by
      have hlev : s.env.pin[l] = q[l] := h.trans hq.symm
      simp [hlev]
    rw [if_pos h, hset, if_neg (by simpa using h)]
  · rw [if_neg h, if_pos (by simpa using h)]
    rfl

/-- The detect phase over distinct lines: the edge of one line does not change which other lines have one. -/
theorem detectLines_setUnread {s u : State} {q : Vector Bool 29} {ls : List Line} (hls : ls.Nodup) (hu : u.env = s.env)
    (hq : ∀ l ∈ ls, q[l] = pinqLevel l s) (n : Nat) :
    ls.foldl detectLine (setUnread q n u) = setUnread (sampleLines s.env.pin ls q) n
      (scheduleEdges s (ls.filter fun l => pinLevel l s != pinqLevel l s) u) := by
  induction ls generalizing q u with
  | nil => rfl
  | cons l ls ih =>
    obtain ⟨hl, hls⟩ := List.nodup_cons.mp hls
    have hset : ∀ m ∈ ls, (q.set l s.env.pin[l])[m] = pinqLevel m s := by
      intro m hm
      have hne : ¬ l.val = m.val := fun e => hl (Fin.ext e ▸ hm)
      simpa [hne] using hq m (List.mem_cons_of_mem _ hm)
    rw [List.foldl_cons, detectLine_setUnread hu (hq l List.mem_cons_self), List.filter_cons]
    split
    · exact ih hls (by simpa using hu) hset
    · exact ih hls hu hset

/-- The detect phase schedules the edges of the lines that changed, and remembers all levels (R65, R67). -/
theorem detectPhase_eq {s u : State} (hu : u.env = s.env) (hq : u.block.pinq = s.block.pinq) :
    detectPhase u = setUnread s.env.pin u.choices (scheduleEdges s (changedLines s) u) := by
  have h := detectLines_setUnread (s := s) (u := u) (q := u.block.pinq) (List.nodup_finRange 29) hu
    (fun l _ => by rw [hq]; rfl) u.choices
  rwa [sampleLines_finRange] at h

/-! ### An armed tick -/

/-- With any latency window: the first `k` entries are confirmed, then the edges scheduled (R65). -/
theorem tickBodyG_prefix {s : State} (ha : s.block.armed = true) :
    ∃ k n, (s.block.pendg.takeWhile (fun e => e.due + s.build.confirmLatencyMax ≤ s.block.now)).length ≤ k ∧
      k ≤ (s.block.pendg.takeWhile (fun e => e.due ≤ s.block.now)).length ∧
      tickBodyG s = setUnread s.env.pin n (scheduleEdges s (changedLines s) (confirmFirst k s)) := by
  obtain ⟨k, hlo, hhi, hk⟩ := confirmPhaseG_prefix s.block.pendg s rfl
  obtain ⟨m, hm⟩ := confirmAll_afterPopChoice (s.block.pendg.take k) (setPendg (s.block.pendg.drop k) s)
  obtain ⟨n, hn⟩ : ∃ n, confirmPhaseG s.block.pendg s = setUnread s.block.pinq n (confirmFirst k s) := by
    rw [hk, hm]
    cases (s.block.pendg.drop k).head? with
    | none => exact ⟨m, rfl⟩
    | some e =>
      obtain ⟨n, hn⟩ := afterPopChoice_eq_setUnread e.due
        (setUnread s.block.pinq m (confirmFirst k s))
      exact ⟨n, hn⟩
  obtain ⟨ax, ay, bt, led, hc⟩ := confirmFirst_eq k s
  have hd := detectPhase_eq (s := s) (u := setUnread s.block.pinq n (confirmFirst k s)) (by rw [setUnread_env, hc]) rfl
  refine ⟨k, n, hlo, hhi, ?_⟩
  unfold tickBodyG
  rw [if_pos ha, hn, hd, scheduleEdges_setUnread]
  rfl

/-- With no latency it is the due entries that are confirmed (R65). -/
theorem tickBodyG_exact {s : State} (ha : s.block.armed = true) (hL : s.build.confirmLatencyMax = 0) :
    ∃ n, tickBodyG s = setUnread s.env.pin n (scheduleEdges s (changedLines s)
      (confirmFirst (s.block.pendg.takeWhile (fun e => e.due ≤ s.block.now)).length s)) := by
  obtain ⟨k, n, hlo, hhi, e⟩ := tickBodyG_prefix ha
  simp only [hL, Nat.add_zero] at hlo
  exact ⟨n, Nat.le_antisymm hhi hlo ▸ e⟩

theorem tickBodyG_unarmed {s : State} (ha : s.block.armed = false) : tickBodyG s = arm (loadPinq s) := by
  simp [tickBodyG, ha]

/-- What the body of a tick can write, armed or not. -/
theorem tickBodyG_eq (s : State) : ∃ ax ay bt led q b n, tickBodyG s =
    { s with
      block := { s.block with
        ax := ax, ay := ay, bt := bt, led := led, pendg := q, ovf := b, armed := true, pinq := s.env.pin }
      choices := n } := by
  cases ha : s.block.armed
  · exact ⟨_, _, _, _, _, _, _, tickBodyG_unarmed ha⟩
  · obtain ⟨k, n, -, -, e⟩ := tickBodyG_prefix ha
    obtain ⟨ax, ay, bt, led, hc⟩ := confirmFirst_eq k s
    obtain ⟨q, b, hd⟩ := scheduleEdges_eq s (changedLines s) (confirmFirst k s)
    refine ⟨ax, ay, bt, led, q, b, n, ?_⟩
    rw [e, hd, hc, ← ha]
    rfl

theorem tickGpio_block (s : State) :
    (tickGpio s).block = { (tickBodyG s).block with now := s.block.now + 1 } := by
  obtain ⟨ax, ay, bt, led, q, b, n, e⟩ := tickBodyG_eq s
  unfold tickGpio
  rw [endTick_block, e]

theorem tickGpio_env (s : State) : (tickGpio s).env = s.env := by
  obtain ⟨ax, ay, bt, led, q, b, n, e⟩ := tickBodyG_eq s
  unfold tickGpio
  rw [endTick_env, e]

/-- Settles O16: the first tick loads `PINQ` and arms; its report phase reaches the agent only. -/
theorem firstTickArmsTheDetector : Obligations.FirstTickArmsTheDetector := by
  intro s ha
  refine ⟨tickGpio s, rfl, ?_, tickGpio_env s⟩
  rw [tickGpio_block, tickBodyG_unarmed ha]
  rfl

/-! ### The phases as operations -/

theorem foldl_after_confirm (es : List GEntry) (s : State) :
    es.foldl (fun u e => after (if e.rise then .gConfR e.line else .gConfF e.line) u) s = confirmAll es s := by
  simp only [after_confirm]
  rfl

theorem foldl_after_edge (s u : State) :
    (List.finRange 29).foldl (fun u l => if pinLevel l s = pinqLevel l s then u
      else after (if pinLevel l s then .gRise l else .gFall l) u) u = scheduleEdges s (changedLines s) u := by
  simp only [after_edge, scheduleEdges, changedLines, List.foldl_filter, bne_iff_ne, ne_eq, ite_not]

/-- The entry of an edge that line `l` has in `s` (R68, R69). -/
def edgeEntry (s : State) (l : Line) : GEntry := ⟨l, pinLevel l s, dueTime s⟩

theorem scheduleEdges_ovf (s : State) (ls : List Line) {u : State} (h : u.block.ovf = true) :
    (scheduleEdges s ls u).block.ovf = true := by
  refine foldl_preserves (P := fun t => t.block.ovf = true) _ (fun l t ht => ?_) ls u h
  rcases scheduleG_cases l (pinLevel l s) t with ⟨_, e⟩ | ⟨_, e⟩ <;> rw [e]
  · exact ht
  · rfl

/-- Where no scheduling overflows, every edge gets its entry. -/
theorem scheduleEdges_append {s u : State} (ls : List Line) (hb : u.build = s.build) (hn : u.block.now = s.block.now)
    (h : s.build.pendingCap = none ∨ (scheduleEdges s ls u).block.ovf = false) :
    scheduleEdges s ls u = setPendg (u.block.pendg ++ ls.map (edgeEntry s)) u := by
  induction ls generalizing u with
  | nil => rw [List.map_nil, List.append_nil]; rfl
  | cons l ls ih =>
    have hdue : dueTime u = dueTime s := by simp only [dueTime, hb, hn]
    rw [scheduleEdges_cons] at h ⊢
    rcases scheduleG_cases l (pinLevel l s) u with ⟨_, e⟩ | ⟨hfull, e⟩
    · have hroom : scheduleG l (pinLevel l s) u = setPendg (u.block.pendg ++ [edgeEntry s l]) u := by
        rw [e, hdue]
        rfl
      rw [hroom] at h ⊢
      rw [ih (u := setPendg (u.block.pendg ++ [edgeEntry s l]) u) hb hn h]
      simp only [setPendg_block, List.append_assoc]
      rfl
    · rw [e] at h
      rcases h with h | h
      · rw [hasRoom_unbounded (by rw [hb, h])] at hfull
        cases hfull
      · rw [scheduleEdges_ovf s ls rfl] at h
        cases h

/-- RTICK in the reference schedule (R115). -/
theorem report_agent {s : State} (ht : s.build.tornReports = false) :
    (report s).agent = if s.env.chReady then (sendAll s).agent else s.agent := by
  unfold report
  rw [if_neg (by simp [ht])]
  split <;> rfl

/-- The agent of a tick in the reference schedule: RTICK's, before the tick's `PINQ` is looked at, in a report tick. -/
theorem endTick_setUnread_agent {d : State} (ht : d.build.tornReports = false) (q : Vector Bool 29) (n : Nat) :
    (endTick (setUnread q n d)).agent =
      if 0 < d.block.now ∧ d.block.now % d.build.reportTicks = 0 then (report d).agent else d.agent := by
  have hr : (report (setUnread q n d)).agent = (report d).agent := by
    rw [report_agent ht, report_agent (s := setUnread q n d) ht]
    rfl
  rw [endTick_agent_report (s := setUnread q n d) ht, hr]
  simp only [isReportTick_iff, setUnread_block, setUnread_build, setUnread_agent]

/-- Settles O18: the equation of an armed tick, with the phases written as operations. -/
theorem tickGConfirmsThenDetects : Obligations.TickGConfirmsThenDetects := by
  intro s ha
  obtain ⟨k, n, hlo, hhi, e⟩ := tickBodyG_prefix ha
  obtain ⟨ax, ay, bt, led, hcframe⟩ := confirmFirst_eq k s
  obtain ⟨q, b, hdframe⟩ := scheduleEdges_eq s (changedLines s) (confirmFirst k s)
  refine ⟨tickGpio s, k, rfl, tickGpio_env s, hlo, hhi, ?_⟩
  intro popped rest c d
  have hc : c = confirmFirst k s := foldl_after_confirm popped _
  have hd : d = scheduleEdges s (changedLines s) c := foldl_after_edge s c
  have hblock : (tickGpio s).block = { d.block with pinq := s.env.pin, now := s.block.now + 1 } := by
    rw [tickGpio_block, e, hd, hc]
    rfl
  refine ⟨hblock, fun hcap => ?_, fun ht => ?_⟩
  · have happ : d = setPendg (c.block.pendg ++ (changedLines s).map (edgeEntry s)) c := by
      rw [hd]
      exact scheduleEdges_append _ (by rw [hc, hcframe]) (by rw [hc, hcframe]) (.inl hcap)
    rw [hblock, happ, hc, hcframe]
    rfl
  · have hdt : d.build.tornReports = false := by rw [hd, hc, hdframe, hcframe]; exact ht
    have hs : d.block.now = s.block.now ∧ d.build = s.build ∧ d.agent = s.agent := by
      rw [hd, hc, hdframe, hcframe]
      exact ⟨rfl, rfl, rfl⟩
    obtain ⟨hnow, hbuild, hagent⟩ := hs
    rw [tickGpio, e, ← hc, ← hd, endTick_setUnread_agent hdt, hnow, hbuild, hagent, after_rtick]

/-- Settles O17: what a tick can write, armed or not. -/
theorem tickGAlwaysCompletes : Obligations.TickGAlwaysCompletes := by
  refine ⟨rfl, fun s => ⟨tickGpio s, rfl, ?_⟩⟩
  obtain ⟨ax, ay, bt, led, q, b, n, e⟩ := tickBodyG_eq s
  simp only [tickGpio_block, tickGpio_env, e, and_self]

/-! ### Single operations -/

/-- The word of an operation with a line in `a` and `d` = 0 (R58). -/
theorem encode_line_toNat {i : Instr} {l : Line} (op : Byte) {n : Nat} (hop : i.row.op = op)
    (hn : op.toNat * 2 ^ 24 = n) (ha : i.fieldA = BitVec.ofNat 8 l.val) (hd : i.fieldD = 0) :
    (encode i).toNat = n + l.val * 0x10000 := by
  have hl : l.val % 2 ^ 8 = l.val := Nat.mod_eq_of_lt (by omega)
  rw [encode, assemble_toNat, ha, hd, BitVec.toNat_ofNat, hl, hop, hn]
  simp

theorem writePin_self {l : Line} {v : Bool} {s : State} (h : pinLevel l s = v) : writePin l v s = s := by
  have hset : s.env.pin.set l v = s.env.pin := by
    subst h
    simp [pinLevel]
  unfold writePin
  rw [hset]

theorem exec_pin (l : Line) (v : Bool) (s : State) :
    exec (if v then .pinH l else .pinL l) s = .next (writePin l v s) := by
  cases v <;> rfl

/-- Settles O13: the operation writes one element of `pin`, and a tick leaves `PINQ` equal to `pin`. -/
theorem pinDrivesOneLine : Obligations.PinDrivesOneLine := by
  intro l s
  refine ⟨encode_line_toNat 0x10 rfl rfl rfl rfl, encode_line_toNat 0x11 rfl rfl rfl rfl,
    fun v => ⟨writePin l v s, exec_pin l v s, ?_⟩⟩
  have hl : pinLevel l (writePin l v s) = v := by rw [pinLevel_writePin, if_pos rfl]
  obtain ⟨u, hu, -, hpinq, -⟩ := tickGAlwaysCompletes.2 (writePin l v s)
  refine ⟨⟨rfl, rfl, rfl⟩, hl, fun m hm => ?_, writePin_self, fun _ => rfl, u, hu, ?_⟩
  · rw [pinLevel_writePin, if_neg (Ne.symm hm)]
  · rw [pinqLevel, hpinq]
    exact hl

theorem exec_edge (l : Line) (rise : Bool) (s : State) :
    exec (if rise then .gRise l else .gFall l) s = .next (scheduleG l rise s) := by
  cases rise <;> rfl

/-- Settles O14: by whether the store has room. -/
theorem edgeSchedulesOneConfirmation : Obligations.EdgeSchedulesOneConfirmation := by
  intro l s
  refine ⟨encode_line_toNat 0x12 rfl rfl rfl rfl, encode_line_toNat 0x13 rfl rfl rfl rfl,
    fun rise => ⟨scheduleG l rise s, exec_edge l rise s, ?_⟩⟩
  obtain ⟨hx, hy, hb⟩ := scheduleG_sameRegs l rise s
  refine ⟨memRead_congr (by rw [scheduleG_build]) hx hy hb, ?_⟩
  rcases scheduleG_cases l rise s with ⟨hroom, e⟩ | ⟨hfull, e⟩ <;> rw [e]
  · refine ⟨fun _ => ⟨⟨rfl, rfl, rfl⟩, ?_⟩, fun c hc hle => ?_⟩
    · exact (lineState_awaiting l _).mpr ⟨_, List.mem_append_right _ List.mem_cons_self, rfl⟩
    · exact absurd ((hasRoom_bounded hc _).mp hroom) (Nat.not_lt.mpr hle)
  · refine ⟨fun hlt => ?_, fun _ _ _ => ⟨rfl, rfl, rfl⟩⟩
    have hroom : hasRoom s.block.pendg.length s = true := by
      cases hc : s.build.pendingCap with
      | none => exact hasRoom_unbounded hc _
      | some c => exact (hasRoom_bounded hc _).mpr (hlt c hc)
    rw [hroom] at hfull
    cases hfull

/-- Settles O15: by the level of the line. -/
theorem confirmationDecidesByTheLevel : Obligations.ConfirmationDecidesByTheLevel := by
  intro l s
  refine ⟨encode_line_toNat 0x14 rfl rfl rfl rfl, encode_line_toNat 0x15 rfl rfl rfl rfl,
    ⟨gConfirm l false s, rfl, fun h => ?_, fun h => ?_⟩,
    ⟨gConfirm l true s, rfl, fun h => ?_, fun h => ?_⟩⟩
  · rw [gConfirm_eq, if_neg (by simp [h])]
  · refine ⟨mapLine l false s, exec_mapLine l false s, ?_⟩
    rw [gConfirm_eq, if_pos h]
    rfl
  · rw [gConfirm_eq, if_neg (by simp [h])]
  · refine ⟨mapLine l true s, exec_mapLine l true s, ?_⟩
    rw [gConfirm_eq, if_pos h]
    rfl

/-! ### The report phase of either tick -/

/-- What the reader agent holds, and what decides whether it sends, are the same in `s` and `t`. -/
structure SameReader (s t : State) : Prop where
  agent : t.agent = s.agent := by simp
  ready : t.env.chReady = s.env.chReady := by simp
  build : t.build = s.build := by simp
  now : t.block.now = s.block.now := by simp

theorem SameReader.refl (s : State) : SameReader s s := ⟨rfl, rfl, rfl, rfl⟩

theorem SameReader.trans {s t u : State} (h : SameReader s t) (h' : SameReader t u) : SameReader s u :=
  ⟨h'.agent.trans h.agent, h'.ready.trans h.ready, h'.build.trans h.build, h'.now.trans h.now⟩

theorem tickBodyG_sameReader (s : State) : SameReader s (tickBodyG s) := by
  obtain ⟨ax, ay, bt, led, q, b, n, e⟩ := tickBodyG_eq s
  rw [e]
  exact {}

theorem SameButRegs.sameReader {s t : State} (h : SameButRegs s t) : SameReader s t := by
  rw [h]
  exact {}

theorem busAfter_sameReader (s : State) : SameReader s (busAfter s) := {}

theorem setLed_sameReader (v : Bool) (s : State) : SameReader s (setLed v s) := {}

theorem setBuserr_sameReader (s : State) : SameReader s (setBuserr s) := {}

theorem writeXirq_sameReader (c : Chip) (v : Bool) (s : State) : SameReader s (writeXirq c v s) := {}

theorem scheduleX_sameReader (c : Chip) (w : Half) (s : State) : SameReader s (scheduleX c w s) := by
  rcases scheduleX_cases c w s with ⟨_, e⟩ | ⟨_, e⟩ <;> rw [e] <;> exact {}

theorem xConfirm_sameReader (c : Chip) (snap : Half) (s : State) : SameReader s (xConfirm c snap s) := by
  have hbus := busAfter_sameReader s
  rcases xConfirm_cases c snap s with ⟨_, e⟩ | ⟨_, _, e⟩ | ⟨_, _, e⟩ <;> rw [e]
  · exact hbus.trans (setBuserr_sameReader _)
  · exact hbus
  · exact (hbus.trans (mapWord_sameButRegs c _ _).sameReader).trans (setLed_sameReader _ _)

theorem xInterrupt_sameReader (c : Chip) (s : State) : SameReader s (xInterrupt c s) := by
  have hbus := busAfter_sameReader s
  rcases xInterrupt_cases c s with ⟨_, e⟩ | ⟨_, e⟩ <;> rw [e]
  · exact hbus.trans (setBuserr_sameReader _)
  · exact hbus.trans (scheduleX_sameReader c _ _)

theorem xInitialise_sameReader (c : Chip) (s : State) : SameReader s (xInitialise c s) := by
  have hbus := busAfter_sameReader s
  rcases xInitialise_cases c s with ⟨_, e⟩ | ⟨_, e⟩ <;> rw [e]
  · exact hbus.trans (setBuserr_sameReader _)
  · exact hbus

theorem tickBodyX_sameReader (s : State) : SameReader s (tickBodyX s) := by
  unfold tickBodyX
  split
  · have hc : SameReader s (confirmPhaseX s.block.pendx s) :=
      confirmPhaseX_preserves (P := SameReader s) (fun _ _ h => h.trans {})
        (fun e rest t h _ _ => (h.trans {}).trans (xConfirm_sameReader e.chip e.snap _)) xConfirm_pendx _ s rfl
        (.refl s)
    refine foldl_preserves (P := SameReader s) _ (fun c t h => ?_) _ _ hc
    rcases serveChip_cases t c with ⟨_, e⟩ | ⟨_, e⟩ <;> rw [e]
    · exact h
    · exact (h.trans (writeXirq_sameReader c false t)).trans (xInterrupt_sameReader c _)
  · exact ((xInitialise_sameReader 0 s).trans (xInitialise_sameReader 1 _)).trans ⟨rfl, rfl, rfl, rfl⟩

theorem allRecords_endTick (s : State) (a : Fin 8) : memRead a (endTick s) = some (allRecords s)[a] := by
  rw [memRead_congr (s := s) (by simp) (by simp) (by simp) (by simp), memRead_lt a.isLt, allRecords_get]

/-- The end of a tick whose body left the reader as it was in `s`. -/
theorem endTick_reports {s u : State} (h : SameReader s u) (ht : s.build.tornReports = false) :
    (¬(0 < s.block.now ∧ s.block.now % s.build.reportTicks = 0) → (endTick u).agent = s.agent) ∧
      (s.env.chReady = false → (endTick u).agent = s.agent) ∧
      (0 < s.block.now → s.block.now % s.build.reportTicks = 0 → s.env.chReady = true →
        (endTick u).agent.txcount = s.agent.txcount + 1 ∧
        ∀ a : Fin 8, memRead a (endTick u) = some (endTick u).agent.outbuf[a]) := by
  obtain ⟨hagent, hready, hbuild, hnow⟩ := h
  have e : (endTick u).agent =
      if (0 < s.block.now ∧ s.block.now % s.build.reportTicks = 0) ∧ s.env.chReady = true then (sendAll u).agent
      else s.agent := by
    rw [endTick_agent (by rw [hbuild, ht]), hagent]
    simp only [isReportTick_iff, hnow, hbuild, hready]
  refine ⟨fun hr => ?_, fun hc => ?_, fun hpos hmod hc => ?_⟩
  · rw [e, if_neg fun h => hr h.1]
  · rw [e, if_neg (by simp [hc])]
  · have esend : (endTick u).agent = (sendAll u).agent := by rw [e, if_pos ⟨⟨hpos, hmod⟩, hc⟩]
    refine ⟨by simp [esend, hagent], fun a => ?_⟩
    simp only [esend]
    exact allRecords_endTick u a

/-- Settles O59: neither tick's body reaches the reader, so the end of the tick decides. -/
theorem ticksReportOnReportTicks : Obligations.TicksReportOnReportTicks := by
  rintro i s (rfl | rfl) ht
  · exact ⟨tickGpio s, rfl, endTick_reports (tickBodyG_sameReader s) ht⟩
  · exact ⟨tickExpander s, rfl, endTick_reports (tickBodyX_sameReader s) ht⟩

end Sys2Proof.Machine

/-! PROOF of the statement on ticks in which every due entry is stale (spec/40_gpio_debounce.md R75): in either variant
such a tick writes no register and not the indicator (O19). -/

namespace Sys2Proof.Machine

/-! ### A tick that confirms nothing -/

/-- The register file and the indicator are as before. -/
def SameOutputs (s t : State) : Prop := SameRegs s t ∧ t.block.led = s.block.led

theorem SameOutputs.trans {s t u : State} (h : SameOutputs s t) (h' : SameOutputs t u) : SameOutputs s u := by
  obtain ⟨⟨hx, hy, hb⟩, hl⟩ := h
  obtain ⟨⟨hx', hy', hb'⟩, hl'⟩ := h'
  exact ⟨⟨hx'.trans hx, hy'.trans hy, hb'.trans hb⟩, hl'.trans hl⟩

theorem SameOutputs.of_block {s t : State} (h : t.block = s.block) : SameOutputs s t :=
  ⟨sameRegs_of_block h, by rw [h]⟩

theorem endTick_sameOutputs (s : State) : SameOutputs s (endTick s) := by
  simp [SameOutputs, SameRegs]

theorem busFail_sameOutputs (s : State) : SameOutputs s (setBuserr (busAfter s)) :=
  ⟨busFail_sameRegs s, by simp⟩

theorem xInterrupt_sameOutputs (c : Chip) (s : State) : SameOutputs s (xInterrupt c s) := by
  refine ⟨xInterrupt_sameRegs c s, ?_⟩
  rcases xInterrupt_cases c s with ⟨_, e⟩ | ⟨_, e⟩ <;> rw [e]
  · simp
  · rcases scheduleX_cases c (portWord c s) (busAfter s) with ⟨_, e⟩ | ⟨_, e⟩ <;> simp [e]

theorem interruptPhase_sameOutputs (s : State) : SameOutputs s (interruptPhase s) := by
  refine foldl_preserves (P := SameOutputs s) _ (fun c t h => ?_) _ s (.of_block rfl)
  rcases serveChip_cases t c with ⟨_, e⟩ | ⟨_, e⟩ <;> rw [e]
  · exact h
  · exact h.trans (xInterrupt_sameOutputs c (writeXirq c false t))

theorem scheduleEdges_sameOutputs (s : State) (ls : List Line) (u : State) : SameOutputs u (scheduleEdges s ls u) := by
  obtain ⟨q, b, e⟩ := scheduleEdges_eq s ls u
  rw [e]
  exact ⟨⟨rfl, rfl, rfl⟩, rfl⟩

theorem confirmAll_stale {es : List GEntry} {s : State} (h : ∀ e ∈ es, pinLevel e.line s ≠ e.rise) :
    confirmAll es s = s := by
  induction es with
  | nil => rfl
  | cons e es ih =>
    have he : gConfirm e.line e.rise s = s := by rw [gConfirm_eq, if_neg (h e List.mem_cons_self)]
    rw [confirmAll_cons, he, ih fun e' he' => h e' (List.mem_cons_of_mem _ he')]

theorem of_mem_take_of_le_takeWhile {α : Type} {p : α → Bool} {q : List α} {k : Nat}
    (hk : k ≤ (q.takeWhile p).length) {x : α} (hx : x ∈ q.take k) : p x = true := by
  have hq : q.take (q.takeWhile p).length = q.takeWhile p :=
    (List.prefix_iff_eq_take.mp (List.takeWhile_prefix p)).symm
  have hmem : x ∈ q.takeWhile p := hq ▸ (List.take_prefix_take_left hk).subset hx
  exact List.mem_takeWhile_imp hmem

/-- R75 in the GPIO variant. -/
theorem tickGpio_stale {s : State} (ha : s.block.armed = true)
    (h : ∀ e ∈ s.block.pendg, e.due ≤ s.block.now → pinLevel e.line s ≠ e.rise) : SameOutputs s (tickGpio s) := by
  obtain ⟨k, n, -, hk, hbody⟩ := tickBodyG_prefix ha
  have hstale : ∀ e ∈ s.block.pendg.take k, pinLevel e.line s ≠ e.rise := fun e he =>
    h e (List.mem_of_mem_take he) (of_decide_eq_true (of_mem_take_of_le_takeWhile hk he))
  have hc : confirmFirst k s = setPendg (s.block.pendg.drop k) s := confirmAll_stale hstale
  have hout : SameOutputs s (tickBodyG s) := by
    rw [hbody, hc]
    exact scheduleEdges_sameOutputs s (changedLines s) (setPendg _ s)
  exact hout.trans (endTick_sameOutputs _)

/-- Inside the confirm phase of the I2C variant nothing has been confirmed yet: what `t` still has pending was
pending in `s`, and is due and stale in `t` as it was in `s`. -/
structure UnconfirmedX (s t : State) : Prop where
  outputs : SameOutputs s t
  now : t.block.now = s.block.now
  port : t.env.port = s.env.port
  store : t.block.pendx ⊆ s.block.pendx

theorem UnconfirmedX.congr {s t u : State} (h : UnconfirmedX s t) (hb : u.block = t.block)
    (hp : u.env.port = t.env.port) : UnconfirmedX s u :=
  ⟨h.outputs.trans (.of_block hb), by rw [hb, h.now], hp.trans h.port, by rw [hb]; exact h.store⟩

/-- An entry taken off the store and found stale, or not looked at because the bus failed (R75, R85). -/
theorem UnconfirmedX.pop {s t : State} (hs : ∀ e ∈ s.block.pendx, e.due ≤ s.block.now → portWord e.chip s ≠ e.snap)
    {e : XEntry} {rest : List XEntry} (h : UnconfirmedX s t) (hq : t.block.pendx = e :: rest)
    (hd : popsNow e.due t = true) :
    UnconfirmedX s (xConfirm e.chip e.snap (setPendx rest (afterPopChoice e.due t))) := by
  set u := setPendx rest (afterPopChoice e.due t) with hu
  have hstale : portWord e.chip u ≠ e.snap := by
    have he : e ∈ s.block.pendx := h.store (hq ▸ List.mem_cons_self)
    rw [portWord_congr (s := s) (by simp [hu, h.port])]
    exact hs e he (h.now ▸ popsNow_due hd)
  have hpop : UnconfirmedX s u := by
    refine ⟨h.outputs.trans ?_, by simp [hu, h.now], by simp [hu, h.port], fun x hx => h.store ?_⟩
    · simp [hu, SameOutputs, SameRegs]
    · rw [hq]
      exact List.mem_cons_of_mem _ hx
  rcases xConfirm_cases e.chip e.snap u with ⟨_, ec⟩ | ⟨_, _, ec⟩ | ⟨_, heq, _⟩
  · rw [ec]
    exact ⟨hpop.outputs.trans (busFail_sameOutputs u), by simp [hpop.now], by simp [hpop.port],
      by simpa using hpop.store⟩
  · rw [ec]
    exact hpop.congr (busAfter_block u) (busAfter_port u)
  · exact absurd heq hstale

/-- R75 in the I2C variant. -/
theorem tickExpander_stale {s : State} (ha : s.block.armed = true)
    (h : ∀ e ∈ s.block.pendx, e.due ≤ s.block.now → portWord e.chip s ≠ e.snap) :
    SameOutputs s (tickExpander s) := by
  have hc : UnconfirmedX s (confirmPhaseX s.block.pendx s) :=
    confirmPhaseX_preserves (P := UnconfirmedX s) (fun due t ht => ht.congr (by simp) (by simp))
      (fun _ _ _ ht hq hd => ht.pop h hq hd) xConfirm_pendx _ s rfl ⟨.of_block rfl, rfl, rfl, List.Subset.refl _⟩
  have hbody : SameOutputs s (tickBodyX s) := by
    unfold tickBodyX
    rw [if_pos ha]
    exact hc.outputs.trans (interruptPhase_sameOutputs _)
  exact hbody.trans (endTick_sameOutputs _)

/-- The records are a view of the register file. -/
theorem SameOutputs.sameRecords {i : Instr} {s t : State} (h : SameOutputs s t) (he : exec i s = .next t) :
    SameRecords s t := by
  obtain ⟨⟨hx, hy, hb⟩, -⟩ := h
  obtain ⟨hbuild, -⟩ := operationsLeaveBuildAndScript i s t he
  exact memRead_congr (by rw [hbuild]) hx hy hb

/-- Settles O19: a stale confirmation writes nothing, and neither phase after it reaches the register file. -/
theorem staleTickChangesNoRegister : Obligations.StaleTickChangesNoRegister := by
  refine ⟨fun s ha h => ?_, fun s ha h => ?_⟩
  · have ho := tickGpio_stale ha h
    exact ⟨tickGpio s, rfl, ho.1, ho.2, ho.sameRecords (i := .tickG) rfl⟩
  · have ho := tickExpander_stale ha h
    exact ⟨tickExpander s, rfl, ho.1, ho.2, ho.sameRecords (i := .tickX) rfl⟩

end Sys2Proof.Machine

/-! PROOFS of the statements on stable edges (spec/40_gpio_debounce.md R76): a lone edge in a quiet block (O20), and an
edge among other entries and other lines (O60). -/

namespace Sys2Proof.Machine

/-! ### A lone edge -/

theorem tickGpio_build (s : State) : (tickGpio s).build = s.build := tickOf_build .gpio s

theorem changedLines_of_sampled {s : State} (hq : s.block.pinq = s.env.pin) : changedLines s = [] := by
  simp [changedLines, pinLevel, pinqLevel, hq]

theorem changedLines_of_lone {s : State} {l : Line} (hl : pinLevel l s ≠ pinqLevel l s)
    (hm : ∀ m : Line, m ≠ l → pinLevel m s = pinqLevel m s) : changedLines s = [l] := by
  refine List.perm_singleton.mp ((List.perm_ext_iff_of_nodup ((List.nodup_finRange 29).filter _)
    (List.nodup_singleton l)).mpr fun m => ?_)
  by_cases h : m = l
  · simp [h, hl]
  · simp [h, hm m h]

/-- A tick with nothing due and no edge. -/
theorem tickGpio_quiet {s : State} (ha : s.block.armed = true) (hL : s.build.confirmLatencyMax = 0)
    (hq : s.block.pinq = s.env.pin) (hd : ∀ e ∈ s.block.pendg, s.block.now < e.due) :
    (tickGpio s).block = { s.block with now := s.block.now + 1 } := by
  have hnone : s.block.pendg.takeWhile (fun e => e.due ≤ s.block.now) = [] := by
    cases hp : s.block.pendg with
    | nil => rfl
    | cons e rest =>
      have he : s.block.now < e.due := hd e (hp ▸ List.mem_cons_self)
      simp [he]
  obtain ⟨n, e⟩ := tickBodyG_exact ha hL
  rw [tickGpio_block, e, changedLines_of_sampled hq, hnone, ← hq]
  rfl

theorem advance_quiet (n : Nat) {s : State} (hv : s.build.variant = .gpio) (ha : s.block.armed = true)
    (hL : s.build.confirmLatencyMax = 0) (hq : s.block.pinq = s.env.pin)
    (hd : ∀ e ∈ s.block.pendg, s.block.now + n ≤ e.due) :
    (advance n s).block = { s.block with now := s.block.now + n } ∧ (advance n s).env = s.env ∧
      (advance n s).build = s.build := by
  induction n generalizing s with
  | zero => exact ⟨rfl, rfl, rfl⟩
  | succ n ih =>
    have ht : (tickGpio s).block = { s.block with now := s.block.now + 1 } :=
      tickGpio_quiet ha hL hq fun e he => by have := hd e he; omega
    obtain ⟨hblock, henv, hbuild⟩ := ih (s := tickGpio s) (by rw [tickGpio_build, hv]) (by rw [ht]; exact ha)
      (by rw [tickGpio_build, hL]) (by rw [ht, tickGpio_env]; exact hq)
      (fun e he => by
        rw [ht] at he ⊢
        have := hd e he
        show s.block.now + 1 + n ≤ e.due
        omega)
    rw [advance_succ, tick_gpio hv, hblock, henv, hbuild, ht, tickGpio_env, tickGpio_build]
    exact ⟨by simp only [Nat.add_assoc, Nat.add_comm 1 n], rfl, rfl⟩

/-- The tick of a lone edge: nothing to confirm, one entry (R68). -/
theorem tickGpio_loneEdge {s : State} {l : Line} (ha : s.block.armed = true) (hcap : s.build.pendingCap ≠ some 0)
    (hp : s.block.pendg = []) (hc : changedLines s = [l]) :
    (tickGpio s).block =
      { s.block with pendg := [edgeEntry s l], pinq := s.env.pin, now := s.block.now + 1 } := by
  obtain ⟨k, n, -, -, e⟩ := tickBodyG_prefix ha
  have hroom : hasRoom 0 s = true := by
    cases h : s.build.pendingCap with
    | none => exact hasRoom_unbounded h 0
    | some c => exact (hasRoom_bounded h 0).mpr (Nat.pos_of_ne_zero fun h0 => hcap (h0 ▸ h))
  have hfirst : confirmFirst k s = s := by
    have hs : setPendg [] s = s := by rw [← hp]; rfl
    rw [confirmFirst, hp, List.take_nil, List.drop_nil, hs]
    rfl
  have hedge : scheduleEdges s [l] s = setPendg [edgeEntry s l] s := by
    show scheduleG l (pinLevel l s) s = _
    rcases scheduleG_cases l (pinLevel l s) s with ⟨_, e⟩ | ⟨hfull, _⟩
    · rw [e, hp]
      rfl
    · rw [hp] at hfull
      cases hroom.symm.trans hfull
  rw [tickGpio_block, e, hc, hfirst, hedge]
  rfl

theorem mapLine_sameButRegs (l : Line) (high : Bool) (s : State) : SameButRegs s (mapLine l high s) := by
  cases high
  · exact mapPressed_eq_mapLine l s ▸ mapPressed_sameButRegs l s
  · exact mapReleased_eq_mapLine l s ▸ mapReleased_sameButRegs l s

theorem mapLine_block_congr {s v : State} {q : List GEntry} {p : Vector Bool 29} {n : Nat} (hb : v.build = s.build)
    (hv : v.block = { s.block with pendg := q, pinq := p, now := n }) (l : Line) (high : Bool) :
    (mapLine l high v).block = { (mapLine l high s).block with pendg := q, pinq := p, now := n } := by
  have hl : lineMapAt l v = lineMapAt l s := by rw [lineMapAt, hb]; rfl
  unfold mapLine
  rw [hl]
  rcases lineMapAt l s with ⟨p, d⟩ | ⟨p, k⟩ | _
  · cases d <;> simp [writeUse, vertical, hv]
  · simp [writeUse, hv]
  · simp [writeUse, hv]

/-- A tick with no edge whose only entry is due and matches its line's level (R70). -/
theorem tickGpio_loneConfirm {s w : State} {l : Line} (ha : s.block.armed = true)
    (hL : s.build.confirmLatencyMax = 0) (hp : s.block.pendg = []) (hb : w.build = s.build) (he : w.env = s.env)
    (hw : w.block = { s.block with pendg := [edgeEntry s l], pinq := s.env.pin, now := dueTime s }) :
    (tickGpio w).block = { (mapLine l (pinLevel l s) s).block with
      led := !(pinLevel l s), pinq := s.env.pin, now := dueTime s + 1 } := by
  obtain ⟨n, e⟩ := tickBodyG_exact (s := w) (by rw [hw]; exact ha) (by rw [hb, hL])
  have hfirst : confirmFirst (w.block.pendg.takeWhile (fun e => e.due ≤ w.block.now)).length w =
      gConfirm l (pinLevel l s) (setPendg [] w) := by
    rw [confirmFirst, hw]
    simp [edgeEntry, confirmAll]
  have hlev : pinLevel l (setPendg [] w) = pinLevel l s := pinLevel_congr (by simp [he]) l
  have hmap := mapLine_block_congr (s := s) (v := setPendg [] w) (q := []) (p := s.env.pin) (n := dueTime s)
    (by simp [hb]) (by simp [hw]) l (pinLevel l s)
  have hstore : (mapLine l (pinLevel l s) s).block.pendg = [] :=
    (sameButRegs_pendg (mapLine_sameButRegs l _ s)).trans hp
  rw [tickGpio_block, e, changedLines_of_sampled (by rw [hw, he]), hfirst, gConfirm_eq, if_pos hlev]
  show { (mapLine l (pinLevel l s) (setPendg [] w)).block with
    led := !(pinLevel l s), pinq := w.env.pin, now := w.block.now + 1 } = _
  rw [hmap, hw, he, ← hstore]

/-- ADV of a count below 2^24 (R117). -/
theorem exec_adv_ofNat {k : Nat} (hk : k < 2 ^ 24) (s : State) :
    exec (.adv (BitVec.ofNat 24 k)) s = .next (advance k s) := by
  have h : (BitVec.ofNat 24 k).toNat = k := by rw [BitVec.toNat_ofNat, Nat.mod_eq_of_lt hk]
  show Host.Outcome.next (advance (BitVec.ofNat 24 k).toNat s) = _
  rw [h]

/-- Settles O20: the edge's tick, then ticks in which nothing is due, then the tick in which its entry is. -/
theorem stableEdgeIsConfirmedOnTime : Obligations.StableEdgeIsConfirmedOnTime := by
  intro s l hv ha hL hD hlt hcap hp hl hm
  have hfirst := tickGpio_loneEdge ha hcap hp (changedLines_of_lone hl hm)
  have hwait (k : Nat) (hpos : 0 < k) (hk : k ≤ s.build.debounceTicks) :
      (advance k s).block = { s.block with pendg := [edgeEntry s l], pinq := s.env.pin, now := s.block.now + k } ∧
        (advance k s).env = s.env ∧ (advance k s).build = s.build := by
    obtain ⟨j, rfl⟩ : ∃ j, k = j + 1 := ⟨k - 1, by omega⟩
    obtain ⟨hblock, henv, hbuild⟩ := advance_quiet j (s := tickGpio s) (by rw [tickGpio_build, hv])
      (by rw [hfirst]; exact ha) (by rw [tickGpio_build, hL]) (by rw [hfirst, tickGpio_env])
      (fun e he => by
        rw [hfirst] at he ⊢
        rw [List.mem_singleton.mp he]
        show s.block.now + 1 + j ≤ s.block.now + s.build.debounceTicks
        omega)
    rw [advance_succ, tick_gpio hv, hblock, henv, hbuild, hfirst, tickGpio_env, tickGpio_build]
    exact ⟨by simp only [Nat.add_assoc, Nat.add_comm 1 j], rfl, rfl⟩
  refine ⟨fun k hpos hk => ?_, ?_⟩
  · obtain ⟨hblock, -, -⟩ := hwait k hpos hk
    refine ⟨advance k s, exec_adv_ofNat (by omega) s, ?_, by rw [hblock], ?_⟩
    · rw [SameRegs, hblock]
      exact ⟨rfl, rfl, rfl⟩
    · rw [lineState_awaiting, hblock]
      exact ⟨edgeEntry s l, List.mem_singleton_self _, rfl⟩
  · obtain ⟨hblock, henv, hbuild⟩ := hwait s.build.debounceTicks hD (Nat.le_refl _)
    have hlast : advance (s.build.debounceTicks + 1) s = tickGpio (advance s.build.debounceTicks s) := by
      rw [advance_add, advance_succ, advance_zero, tick_gpio (by rw [hbuild, hv])]
    refine ⟨_, _, exec_adv_ofNat hlt s, exec_mapLine l _ s, ?_, ?_⟩
    · rw [hlast, tickGpio_loneConfirm ha hL hp hbuild henv hblock]
      rfl
    · rw [hlast, tickGpio_env, henv]

/-! ### The register a line is wired to -/

/-- The register behind a line of this use holds what the mapper writes for this level. -/
def HoldsUse (use : LineUse) (high : Bool) (s : State) : Prop :=
  match use with
  | .dir p d => (if vertical d then readAy p s else readAx p s) = (lineAxis d high).toByte
  | .btn p k => readBt p k s = !high
  | .reserved => True

theorem HoldsUse.of_sameRegs {use : LineUse} {high : Bool} {s t : State} (h : HoldsUse use high s)
    (hr : SameRegs s t) : HoldsUse use high t := by
  obtain ⟨hx, hy, hb⟩ := hr
  rcases use with ⟨p, d⟩ | ⟨p, k⟩ | _
  · simpa only [HoldsUse, readAx, readAy, hx, hy] using h
  · simpa only [HoldsUse, readBt, hb] using h
  · trivial

theorem holdsUse_writeUse (use : LineUse) (high : Bool) (s : State) : HoldsUse use high (writeUse use high s) := by
  rcases use with ⟨p, d⟩ | ⟨p, k⟩ | _
  · cases hd : vertical d <;> simp [HoldsUse, writeUse, hd, readAx_writeAx, readAy_writeAy]
  · simp [HoldsUse, writeUse, readBt_writeBt]
  · trivial

/-- A write for a line of another register leaves the register (R102, R103). -/
theorem HoldsUse.writeUse_of_not_shares {use use' : LineUse} {high high' : Bool} {s : State}
    (h : HoldsUse use high s) (hs : sharesRegister use' use = false) : HoldsUse use high (writeUse use' high' s) := by
  rcases use' with ⟨p, d⟩ | ⟨p, k⟩ | _ <;> rcases use with ⟨q, e⟩ | ⟨q, j⟩ | _
  case dir.dir =>
    by_cases hpq : p = q
    · subst hpq
      have hde : vertical d ≠ vertical e := by simpa [sharesRegister] using hs
      cases hd : vertical d <;> cases he : vertical e <;> simp_all [HoldsUse, writeUse]
    · cases hd : vertical d <;> cases he : vertical e <;>
        simpa [HoldsUse, writeUse, hd, he, readAx_writeAx, readAy_writeAy, hpq] using h
  case btn.btn =>
    have hne : ¬ (p = q ∧ k = j) := by simpa [sharesRegister] using hs
    show readBt q j (writeBt p k (!high') s) = _
    rw [readBt_writeBt, if_neg hne]
    exact h
  case dir.btn => cases hd : vertical d <;> simpa [HoldsUse, writeUse, hd] using h
  case btn.dir => simpa [HoldsUse, writeUse] using h
  all_goals exact h

/-- Writing what the register holds changes nothing (R109). -/
theorem HoldsUse.writeUse_eq {use : LineUse} {high : Bool} {s : State} (h : HoldsUse use high s) :
    writeUse use high s = s := by
  rcases use with ⟨p, d⟩ | ⟨p, k⟩ | _
  · cases hd : vertical d <;> simp only [HoldsUse, hd, readAx, readAy] at h <;>
      simp [writeUse, hd, writeAx, writeAy, ← h]
  · have hk : (s.block.bt[p])[k] = !high := h
    simp [writeUse, writeBt, ← hk]
  · rfl

/-- A confirmed entry leaves its line's register holding the value of the entry's direction. -/
theorem gConfirm_holdsUse {l : Line} {rise : Bool} {s : State} (h : pinLevel l s = rise) :
    HoldsUse (lineMapAt l s) rise (gConfirm l rise s) := by
  rw [gConfirm_eq, if_pos h]
  exact (holdsUse_writeUse _ rise s).of_sameRegs ⟨rfl, rfl, rfl⟩

theorem HoldsUse.gConfirm {use : LineUse} {high : Bool} {s : State} (h : HoldsUse use high s) {m : Line}
    (hs : sharesRegister (lineMapAt m s) use = false) (rise : Bool) : HoldsUse use high (gConfirm m rise s) := by
  rw [gConfirm_eq]
  split
  · exact (h.writeUse_of_not_shares hs).of_sameRegs ⟨rfl, rfl, rfl⟩
  · exact h

/-- The last entry of a register among those confirmed decides it (R79). -/
theorem confirmAll_holdsUse {l : Line} {high : Bool} {s : State} (before : List GEntry) (due : Nat)
    {others : List GEntry} (hl : pinLevel l s = high)
    (hs : ∀ e ∈ others, sharesRegister (lineMapAt e.line s) (lineMapAt l s) = false) :
    HoldsUse (lineMapAt l s) high (confirmAll (before ++ ⟨l, high, due⟩ :: others) s) := by
  obtain ⟨hbuild, henv⟩ : (confirmAll before s).build = s.build ∧ (confirmAll before s).env = s.env := by
    rw [confirmAll_sameButRegsLed before s]
    exact ⟨rfl, rfl⟩
  have hmap (m : Line) : lineMapAt m (confirmAll before s) = lineMapAt m s := by
    rw [lineMapAt, hbuild]
    rfl
  have hstart : HoldsUse (lineMapAt l s) high (gConfirm l high (confirmAll before s)) := by
    rw [← hmap l]
    exact gConfirm_holdsUse ((pinLevel_congr (by rw [henv]) l).trans hl)
  have hfold : confirmAll (before ++ ⟨l, high, due⟩ :: others) s =
      confirmAll others (gConfirm l high (confirmAll before s)) := List.foldl_append
  rw [hfold]
  refine (List.foldlRecOn (motive := fun u => u.build = s.build ∧ HoldsUse (lineMapAt l s) high u) others _
    ⟨by simp [hbuild], hstart⟩ fun u ⟨hb, hu⟩ e he => ⟨by simp [hb], hu.gConfirm ?_ e.rise⟩).2
  rw [lineMapAt, hb]
  exact hs e he

/-! ### The entries due at one time -/

/-- The entries of `PENDG` due at `n`. -/
def entriesDueAt (n : Nat) (s : State) : List GEntry := s.block.pendg.filter fun e => e.due == n

/-- In a timely store with no latency the entries due now are those that `NOW` has reached. -/
theorem takeWhile_due_eq {q : List GEntry} {n : Nat} (hsorted : (q.map GEntry.due).Pairwise (· ≤ ·))
    (hn : ∀ e ∈ q, n ≤ e.due) : q.takeWhile (fun e => e.due ≤ n) = q.filter (fun e => e.due == n) := by
  induction q with
  | nil => rfl
  | cons e q ih =>
    obtain ⟨hlater, hsorted⟩ := List.pairwise_cons.mp hsorted
    have he := hn e List.mem_cons_self
    by_cases h : e.due = n
    · rw [List.takeWhile_cons_of_pos (by simp [h]), List.filter_cons_of_pos (by simp [h]),
        ih hsorted fun e' he' => hn e' (List.mem_cons_of_mem _ he')]
    · have hnone : q.filter (fun e => e.due == n) = [] := by
        refine List.filter_eq_nil_iff.mpr fun e' he' => ?_
        have := hlater e'.due (List.mem_map_of_mem he')
        have hne : e'.due ≠ n := by omega
        simpa using hne
      have hgt : ¬ e.due ≤ n := by omega
      rw [List.takeWhile_cons_of_neg (by simpa using hgt), List.filter_cons_of_neg (by simpa using h), hnone]

/-- Later than `s`, `v` holds the entries `es` due at the due time of `s`, while `m` more ticks do not pass that
time. -/
structure KeepsDue (s : State) (es : List GEntry) (m : Nat) (v : State) : Prop where
  build : v.build = s.build
  later : s.block.now < v.block.now
  entries : v.block.now + m ≤ dueTime s → entriesDueAt (dueTime s) v = es

section
variable {s : State} {es : List GEntry} {m : Nat} {v w : State}

theorem KeepsDue.framed (h : KeepsDue s es m v) (hf : Framed v w)
    (he : v.block.now + m ≤ dueTime s → entriesDueAt (dueTime s) w = entriesDueAt (dueTime s) v) :
    KeepsDue s es m w := by
  obtain ⟨hbuild, hlater, hentries⟩ := h
  refine ⟨hf.build.trans hbuild, hf.now ▸ hlater, fun hn => ?_⟩
  rw [hf.now] at hn
  rw [he hn, hentries hn]

/-- An edge after `s` is due later than one in `s`. -/
theorem entriesDueAt_scheduleG (h : KeepsDue s es m v) (l : Line) (rise : Bool) :
    entriesDueAt (dueTime s) (scheduleG l rise v) = entriesDueAt (dueTime s) v := by
  have hne : ¬ dueTime v = dueTime s := by
    have := h.later
    simp only [dueTime, h.build]
    omega
  rcases scheduleG_cases l rise v with ⟨_, e⟩ | ⟨_, e⟩ <;> rw [e]
  · simp [entriesDueAt, hne]
  · rfl

theorem KeepsDue.edit {x : Variant} (h : KeepsDue s es m v) (he : Edit x v w) : KeepsDue s es m w := by
  refine h.framed he.framed fun _ => ?_
  cases he with
  | quiet q => rw [entriesDueAt, q.pendg]; rfl
  | scheduleG l r => exact entriesDueAt_scheduleG h l r
  | scheduleX c x => rcases scheduleX_cases c x v with ⟨_, e⟩ | ⟨_, e⟩ <;> rw [e] <;> rfl
  | buserr => rfl

/-- An entry popped before the due time is none of them. -/
theorem KeepsDue.phaseStep {x : Variant} (h : KeepsDue s es 1 v) (hp : PhaseStep x v w) : KeepsDue s es 1 w := by
  cases hp with
  | edit he => exact h.edit he
  | @popG _ e rest hq hd =>
    refine h.framed {} fun hn => ?_
    have hne : ¬ e.due = dueTime s := by omega
    simp [entriesDueAt, hq, hne]
  | popX hq hd => exact h.framed {} fun _ => rfl

theorem KeepsDue.tickOf {x : Variant} (h : KeepsDue s es 0 v) : KeepsDue s es 0 (tickOf x v) := by
  refine tickOf_preserves (P := KeepsDue s es 0) (Q := KeepsDue s es 1) (fun u hu => ?_)
    (fun _ _ hp hu => hu.phaseStep hp) (fun u hu => ?_) v h
  · exact ⟨hu.build, hu.later, fun hn => hu.entries (by omega)⟩
  · refine ⟨(endTick_build u).trans hu.build, ?_, fun hn => ?_⟩
    · have := hu.later
      simp only [endTick_block]
      omega
    · simp only [endTick_block] at hn
      rw [← hu.entries hn]
      simp [entriesDueAt]

end

/-! ### What happens between an edge and its confirmation -/

theorem exec_eq_next_after (i : Instr) (s : State) : exec i s = .next (after i s) := by
  cases i with
  | rdb p k => simp only [after, exec_rdb]
  | _ => rfl

theorem Timely.after {i : Instr} {s : State} (hD : 0 < s.build.debounceTicks) (hi : i.variantOk s.build = true)
    (h : Timely s) : Timely (after i s) := by
  refine ((exec_effect (exec_eq_next_after i s)).preserves (P := fun u => u.build = s.build ∧ Timely u)
    (fun _ ⟨hb, _⟩ => ⟨hb, timely_resetBlock _⟩) (fun _ _ hu => hu) (fun v hv u w he ⟨hb, hu⟩ => ?_)
    (fun v hv u ⟨hb, hu⟩ => ?_) ⟨rfl, h⟩).2
  · exact ⟨he.framed.build.trans hb, hu.edit (by rw [hb]; exact hv hi) he⟩
  · exact ⟨(tickOf_build v u).trans hb, hu.tickOf (by rwa [hb]) (by rw [hb]; exact hv hi)⟩

theorem KeepsDue.after {s v : State} {es : List GEntry} {i : Instr} (hi : i ≠ .reset) (h : KeepsDue s es 0 v) :
    KeepsDue s es 0 (after i v) :=
  (exec_effect (exec_eq_next_after i v)).preserves (fun hr => absurd hr hi)
    (fun _ _ hv => ⟨hv.build, hv.later, hv.entries⟩) (fun _ _ _ _ he hu => hu.edit he) (fun _ _ _ hu => hu.tickOf) h

/-- An operation the environment or the reader may perform while line `l` is stable. -/
def LeavesLine (l : Line) (i : Instr) : Prop :=
  (∃ n, i = .adv n) ∨ (∃ m, m ≠ l ∧ (i = .pinL m ∨ i = .pinH m)) ∨ (∃ p k, i = .rdb p k) ∨ (∃ p, i = .rdr p) ∨
    i = .rdy0 ∨ i = .rdy1

theorem LeavesLine.ne_reset {l : Line} {i : Instr} (h : LeavesLine l i) : i ≠ .reset := by
  rintro rfl
  simp [LeavesLine] at h

theorem LeavesLine.variantOk {l : Line} {i : Instr} (h : LeavesLine l i) {b : Build} (hb : b.variant = .gpio) :
    i.variantOk b = true := by
  rcases h with ⟨n, rfl⟩ | ⟨m, -, rfl | rfl⟩ | ⟨p, k, rfl⟩ | ⟨p, rfl⟩ | rfl | rfl <;>
    simp [Instr.variantOk, Instr.row, hb]

theorem advance_env (n : Nat) {s : State} (hv : s.build.variant = .gpio) : (advance n s).env = s.env :=
  (advance_preserves (P := fun u => u.build.variant = .gpio ∧ u.env = s.env)
    (fun u ⟨hb, he⟩ => by rw [tick_gpio hb, tickGpio_build, tickGpio_env]; exact ⟨hb, he⟩) n s ⟨hv, rfl⟩).2

theorem LeavesLine.pinLevel {l : Line} {i : Instr} (h : LeavesLine l i) {s : State} (hv : s.build.variant = .gpio) :
    pinLevel l (after i s) = pinLevel l s := by
  rcases h with ⟨n, rfl⟩ | ⟨m, hm, rfl | rfl⟩ | ⟨p, k, rfl⟩ | ⟨p, rfl⟩ | rfl | rfl
  · exact pinLevel_congr (by rw [after_adv, advance_env _ hv]) l
  · exact (pinLevel_writePin m l false s).trans (if_neg hm)
  · exact (pinLevel_writePin m l true s).trans (if_neg hm)
  · rw [after_of_next (exec_rdb p k s)]; rfl
  · rfl
  · rfl
  · rfl

/-- `v` comes after the tick of an edge of line `l` in `s`, which entered the entries `es` for its due time. -/
structure SinceEdge (s : State) (l : Line) (es : List GEntry) (v : State) : Prop where
  timely : Timely v
  level : pinLevel l v = pinLevel l s
  due : KeepsDue s es 0 v

section
variable {s : State} {l : Line}

theorem SinceEdge.after {es : List GEntry} {v : State} {i : Instr} (h : SinceEdge s l es v)
    (hv : s.build.variant = .gpio) (hD : 0 < s.build.debounceTicks) (hi : LeavesLine l i) :
    SinceEdge s l es (after i v) := by
  obtain ⟨htimely, hlevel, hdue⟩ := h
  have hb := hdue.build
  have hgpio : v.build.variant = .gpio := by rw [hb, hv]
  exact ⟨htimely.after (by rwa [hb]) (hi.variantOk hgpio), (hi.pinLevel hgpio).trans hlevel,
    hdue.after hi.ne_reset⟩

/-- The entries a tick of an armed block leaves for the due time of its own edges. -/
theorem tickGpio_entriesDue (ha : s.block.armed = true)
    (hcap : s.build.pendingCap = none ∨ (tickGpio s).block.ovf = false) :
    ∃ before, entriesDueAt (dueTime s) (tickGpio s) = before ++ (changedLines s).map (edgeEntry s) := by
  obtain ⟨k, n, -, -, e⟩ := tickBodyG_prefix ha
  obtain ⟨ax, ay, bt, led, hc⟩ := confirmFirst_eq k s
  have hblock : (tickGpio s).block =
      { (scheduleEdges s (changedLines s) (confirmFirst k s)).block with
        pinq := s.env.pin, now := s.block.now + 1 } := by
    rw [tickGpio_block, e]
    rfl
  have happ : scheduleEdges s (changedLines s) (confirmFirst k s) =
      setPendg ((confirmFirst k s).block.pendg ++ (changedLines s).map (edgeEntry s)) (confirmFirst k s) := by
    rw [hblock] at hcap
    exact scheduleEdges_append _ (by rw [hc]) (by rw [hc]) hcap
  have hedges : ((changedLines s).map (edgeEntry s)).filter (fun e => e.due == dueTime s) =
      (changedLines s).map (edgeEntry s) := by
    refine List.filter_eq_self.mpr fun e he => ?_
    obtain ⟨m, -, rfl⟩ := List.mem_map.mp he
    simp [edgeEntry]
  refine ⟨(confirmFirst k s).block.pendg.filter fun e => e.due == dueTime s, ?_⟩
  rw [entriesDueAt, hblock, happ]
  simp only [setPendg_block, List.filter_append, hedges]

/-- The changed lines around one of them: those after it are higher (R79). -/
theorem changedLines_split (hl : pinLevel l s ≠ pinqLevel l s) :
    ∃ lower higher, changedLines s = lower ++ l :: higher ∧
      ∀ m ∈ higher, l < m ∧ pinLevel m s ≠ pinqLevel m s := by
  have hmem : l ∈ changedLines s := by simp [changedLines, hl]
  obtain ⟨lower, higher, e⟩ := List.append_of_mem hmem
  refine ⟨lower, higher, e, fun m hm => ⟨?_, ?_⟩⟩
  · have hsorted : (changedLines s).Pairwise (· < ·) := (List.pairwise_lt_finRange 29).filter _
    rw [e] at hsorted
    exact (List.pairwise_cons.mp (List.pairwise_append.mp hsorted).2.1).1 m hm
  · have hm' : m ∈ changedLines s := e ▸ List.mem_append_right _ (List.mem_cons_of_mem _ hm)
    simpa [changedLines] using hm'

/-- The tick that confirms the entries `es` of the edge. -/
theorem SinceEdge.popped {es : List GEntry} {u : State} (h : SinceEdge s l es u) (hL : s.build.confirmLatencyMax = 0)
    (hu : u.block.now = dueTime s) : u.block.pendg.takeWhile (fun e => e.due ≤ u.block.now) = es := by
  obtain ⟨⟨-, -, ⟨hsorted, hwindow⟩, -⟩, -, hdue⟩ := h
  have hnow : ∀ e ∈ u.block.pendg, u.block.now ≤ e.due := fun e he => by
    have hle := (hwindow e.due (List.mem_map_of_mem he)).2.2
    rwa [hdue.build, hL] at hle
  rw [takeWhile_due_eq hsorted hnow, ← hdue.entries (by omega), ← hu]
  rfl

/-- After the tick that confirms them the register of the last entry's line holds its value. -/
theorem tickGpio_holdsUse {u : State} {high : Bool} {before others : List GEntry} {due : Nat}
    (ha : u.block.armed = true) (hL : u.build.confirmLatencyMax = 0) (hl : pinLevel l u = high)
    (hq : u.block.pendg.takeWhile (fun e => e.due ≤ u.block.now) = before ++ ⟨l, high, due⟩ :: others)
    (hs : ∀ e ∈ others, sharesRegister (lineMapAt e.line u) (lineMapAt l u) = false) :
    HoldsUse (lineMapAt l u) high (tickGpio u) := by
  obtain ⟨n, e⟩ := tickBodyG_exact ha hL
  set k := (u.block.pendg.takeWhile (fun e => e.due ≤ u.block.now)).length with hk
  have htake : u.block.pendg.take k = before ++ ⟨l, high, due⟩ :: others := by
    rw [← hq, hk]
    exact (List.prefix_iff_eq_take.mp (List.takeWhile_prefix _)).symm
  have hconf : HoldsUse (lineMapAt l u) high (confirmFirst k u) := by
    rw [confirmFirst, htake]
    exact confirmAll_holdsUse (s := setPendg (u.block.pendg.drop k) u) before due hl hs
  have hbody : HoldsUse (lineMapAt l u) high (tickBodyG u) := by
    rw [e]
    exact hconf.of_sameRegs (scheduleEdges_sameOutputs u (changedLines u) (confirmFirst k u)).1
  exact hbody.of_sameRegs (endTick_sameOutputs _).1

end

/-- Settles O60: the entry of the edge stays until its due time, where the tick confirms exactly the entries for that
time; among those it is followed by the edges of higher lines only. -/
theorem lastEdgeIsConfirmedAmongOthers : Obligations.LastEdgeIsConfirmedAmongOthers := by
  intro s l is hv ha hL hD hs hcap hl his u hu
  have hvar : Instr.tickG.variantOk s.build = true := by simp [Instr.variantOk, Instr.row, hv]
  obtain ⟨before, hes⟩ := tickGpio_entriesDue ha hcap
  obtain ⟨lower, higher, hsplit, hhigher⟩ := changedLines_split hl
  set es := before ++ (changedLines s).map (edgeEntry s) with hesdef
  have hstart : SinceEdge s l es (tickGpio s) := by
    refine ⟨hs.after hD hvar, pinLevel_congr (by rw [tickGpio_env]) l, tickGpio_build s, ?_, fun _ => hes⟩
    rw [tickGpio_block]
    exact Nat.lt_succ_self _
  have hend : SinceEdge s l es u :=
    List.foldlRecOn (motive := SinceEdge s l es) is _ hstart fun v hv' i hi => hv'.after hv hD (his i hi)
  have hpop := hend.popped hL hu
  obtain ⟨htimely, hlevel, hdue⟩ := hend
  have hb : u.build = s.build := hdue.build
  have hmap (m : Line) : lineMapAt m u = lineMapAt m s := by rw [lineMapAt, hb]; rfl
  refine ⟨tickGpio u, rfl, ?_, hlevel, fun e he => ?_, fun hhigh => ?_⟩
  · have hmem : edgeEntry s l ∈ es := by simp [hesdef, hsplit]
    rw [hpop, hu]
    exact hmem
  · obtain ⟨-, -, ⟨-, hwindow⟩, -⟩ := htimely.after (i := .tickG) (by rwa [hb]) (by rwa [hb])
    have hle := (hwindow e.due (List.mem_map_of_mem he)).2.2
    rw [after_tickG, tickGpio_block, tickGpio_build, hb, hL] at hle
    exact hle
  · have hua : u.block.armed = true := by
      by_contra hf
      have h0 := htimely.2.1 (by simpa using hf)
      omega
    have hothers : ∀ e ∈ higher.map (edgeEntry s), sharesRegister (lineMapAt e.line u) (lineMapAt l u) = false := by
      intro e he
      obtain ⟨m, hm, rfl⟩ := List.mem_map.mp he
      obtain ⟨hlt, hedge⟩ := hhigher m hm
      rw [hmap, hmap]
      exact Bool.eq_false_iff.mpr fun hshare => hedge (hhigh m hlt hshare)
    have hsplit' : es = (before ++ lower.map (edgeEntry s)) ++ edgeEntry s l :: higher.map (edgeEntry s) := by
      simp [hesdef, hsplit]
    have hholds := tickGpio_holdsUse hua (by rw [hb, hL]) hlevel (hpop.trans hsplit') hothers
    have hmapt : lineMapAt l (tickGpio u) = lineMapAt l u := by rw [lineMapAt, tickGpio_build]; rfl
    rw [exec_mapLine, mapLine, hmapt, hholds.writeUse_eq]

end Sys2Proof.Machine

/-! PROOFS of the statements on the expander engine's single operations (spec/41_expander_debounce.md): a bus
transaction, said once as an equation, and from it the bus (O22), the boot write (O23), the interrupt (O24), the
comparator (O25) and the independence of the two chips (O30). -/

namespace Sys2Proof.Machine

/-! ### The words of chip operations -/

/-- The word of an operation with a chip in `a` (R58). -/
theorem encode_chip_toNat {i : Instr} {c : Chip} (op : Byte) {n : Nat} (hop : i.row.op = op)
    (hn : op.toNat * 2 ^ 24 = n) (ha : i.fieldA = BitVec.ofNat 8 c.val) :
    (encode i).toNat = n + c.val * 0x10000 + i.fieldD.toNat := by
  have hc : c.val % 2 ^ 8 = c.val := Nat.mod_eq_of_lt (by omega)
  rw [encode, assemble_toNat, ha, BitVec.toNat_ofNat, hc, hop, hn]
  simp

/-! ### A bus transaction -/

/-- A transaction counts `busf` down, as far as it goes, and may use a free value (R92). -/
theorem busAfter_eq (s : State) :
    ∃ n, busAfter s = { s with env := { s.env with busf := s.env.busf - 1 }, choices := n } := by
  rcases busAfter_cases s with ⟨_, h⟩ | ⟨h0, _, h⟩ | ⟨h0, _, h⟩
  · exact ⟨s.choices, h⟩
  · have hb : s.env.busf - 1 = s.env.busf := by omega
    exact ⟨s.choices + 1, by rw [h, hb]; rfl⟩
  · have hb : s.env.busf - 1 = s.env.busf := by omega
    exact ⟨s.choices, by rw [h, hb]⟩

theorem busFailing_of_busf_pos {s : State} (h : 0 < s.env.busf) : busFailing s = true := by
  simp [busFailing, h]

theorem busAfter_of_busf_pos {s : State} (h : 0 < s.env.busf) : busAfter s = writeBusf (s.env.busf - 1) s :=
  if_pos h

/-- In a build whose bus fails only by `busf` (R92). -/
theorem busFailing_of_not_free {s : State} (h : s.build.freeBus = false) : busFailing s = decide (0 < s.env.busf) := by
  simp [busFailing, h]

theorem busAfter_of_not_free {s : State} (h : s.build.freeBus = false) : busAfter s = writeBusf (s.env.busf - 1) s := by
  rcases busAfter_cases s with ⟨_, e⟩ | ⟨_, hf, _⟩ | ⟨h0, _, e⟩
  · exact e
  · rw [h] at hf
    cases hf
  · have hb : s.env.busf - 1 = s.env.busf := by omega
    rw [e, hb, writeBusf]

theorem busWrite16_snd (c : Chip) (v : Half) (s : State) : (busWrite16 c v s).2 = busAfter s := rfl

theorem busWrite16_fst (c : Chip) (v : Half) (s : State) : (busWrite16 c v s).1 = !busFailing s := rfl

theorem busRead16_eq_none_iff (c : Chip) (s : State) : (busRead16 c s).1 = none ↔ busFailing s = true := by
  simp [busRead16]

theorem busRead16_eq_some_iff (c : Chip) (s : State) (v : Half) :
    (busRead16 c s).1 = some v ↔ busFailing s = false ∧ portWord c s = v := by
  simp [busRead16]

/-- Settles O22: by the count and by the build. -/
theorem busFailsWhileBusfCounts : Obligations.BusFailsWhileBusfCounts := by
  refine ⟨fun n s => ⟨?_, writeBusf n.toNat s, rfl, ⟨rfl, rfl, rfl⟩, fun _ => rfl⟩, fun c v s hpos => ?_,
    fun c v s h0 hfree => ?_, fun c v s => ?_⟩
  · have hop : (Instr.busf n).row.op.toNat * 2 ^ 24 + (Instr.busf n).fieldA.toNat * 2 ^ 16 = 0x25000000 := by
      simp [Instr.row, Instr.fieldA]
    rw [encode, assemble_toNat, hop]
    rfl
  · rw [busRead16, busWrite16, busFailing_of_busf_pos hpos, busAfter_of_busf_pos hpos]
    exact ⟨rfl, rfl⟩
  · obtain ⟨hf, ha⟩ := bus_quiet h0 hfree
    rw [busRead16, busWrite16, hf, ha]
    exact ⟨rfl, rfl⟩
  · refine ⟨?_, busAfter_block s, busAfter_block s, busAfter_port s, busAfter_port s⟩
    rw [busRead16_eq_none_iff, busRead16_eq_some_iff]
    cases busFailing s <;> simp

/-! ### The three operations on the block -/

theorem xInitialise_of_failing {s : State} (c : Chip) (h : busFailing s = true) :
    xInitialise c s = setBuserr (busAfter s) := by
  simp [xInitialise, busWrite16, h]

theorem xInitialise_of_ok {s : State} (c : Chip) (h : busFailing s = false) : xInitialise c s = busAfter s := by
  simp [xInitialise, busWrite16, h]

theorem xInterrupt_of_failing {s : State} (c : Chip) (h : busFailing s = true) :
    xInterrupt c s = setBuserr (busAfter s) := by
  simp [xInterrupt, busRead16, h]

theorem xInterrupt_of_ok {s : State} (c : Chip) (h : busFailing s = false) :
    xInterrupt c s = scheduleX c (portWord c s) (busAfter s) := by
  simp [xInterrupt, busRead16, h]

theorem xConfirm_of_failing {s : State} (c : Chip) (snap : Half) (h : busFailing s = true) :
    xConfirm c snap s = setBuserr (busAfter s) := by
  simp [xConfirm, busRead16, h]

theorem xConfirm_of_ne {s : State} {c : Chip} {snap : Half} (h : busFailing s = false) (hv : portWord c s ≠ snap) :
    xConfirm c snap s = busAfter s := by
  simp [xConfirm, busRead16, h, hv]

theorem xConfirm_of_eq {s : State} {c : Chip} {snap : Half} (h : busFailing s = false) (hv : portWord c s = snap) :
    xConfirm c snap s = setLed (indicatorOf (invertPort snap)) (mapWord c (invertPort snap) (busAfter s)) := by
  simp [xConfirm, busRead16, h, hv]

theorem sameRecords_of_sameRegs {i : Instr} {s t : State} (he : exec i s = .next t) (h : SameRegs s t) :
    SameRecords s t := by
  obtain ⟨hx, hy, hb⟩ := h
  obtain ⟨hbuild, -⟩ := operationsLeaveBuildAndScript i s t he
  exact memRead_congr (by rw [hbuild]) hx hy hb

/-- A transaction that failed: the state it leaves, with `BUSERR` set (R122). -/
theorem busFail_blockBecomes (s : State) :
    BlockBecomes (busAfter s) (setBuserr (busAfter s)) { s.block with buserr := true } :=
  ⟨by simp, rfl, rfl⟩

/-- Settles O23: by whether the write fails. -/
theorem initWritesAllOnes : Obligations.InitWritesAllOnes := by
  intro c s
  have hd : (Instr.xInit c).fieldD.toNat = 0xFFFF := rfl
  have hword : (encode (.xInit c)).toNat = 0x2400FFFF + c.val * 0x10000 := by
    rw [encode_chip_toNat (n := 0x24000000) 0x24 rfl rfl rfl, hd]
    omega
  refine ⟨hword, xInitialise c s, rfl, sameRecords_of_sameRegs (i := .xInit c) rfl
    (xInitialise_sameRegs c s), fun h => ?_, fun h => ?_⟩
  · rw [busWrite16_snd]
    exact xInitialise_of_ok c (by simpa [busWrite16_fst] using h)
  · rw [busWrite16_snd, xInitialise_of_failing c (by simpa [busWrite16_fst] using h)]
    exact busFail_blockBecomes s

theorem hasRoom_iff (n : Nat) (s : State) : hasRoom n s = true ↔ ∀ c, s.build.pendingCap = some c → n < c := by
  cases h : s.build.pendingCap <;> simp [hasRoom, h]

theorem scheduleX_of_room {s : State} (c : Chip) (v : Half) (h : hasRoom s.block.pendx.length s = true) :
    scheduleX c v s = setPendx (s.block.pendx ++ [⟨c, v, dueTime s⟩]) s :=
  if_pos h

theorem scheduleX_of_full {s : State} (c : Chip) (v : Half) (h : ¬ hasRoom s.block.pendx.length s = true) :
    scheduleX c v s = setOvf s :=
  if_neg h

/-- A transaction does not change the store, nor whether it has room. -/
theorem hasRoom_busAfter (s : State) :
    hasRoom (busAfter s).block.pendx.length (busAfter s) = hasRoom s.block.pendx.length s := by
  simp [hasRoom]

theorem dueTime_busAfter (s : State) : dueTime (busAfter s) = dueTime s := by
  simp [dueTime]

/-- Settles O24: by whether the read fails, and then by whether the store has room. -/
theorem interruptSchedulesTheSnapshot : Obligations.InterruptSchedulesTheSnapshot := by
  intro c s
  refine ⟨encode_chip_toNat 0x22 rfl rfl rfl, xInterrupt c s, rfl, sameRecords_of_sameRegs (i := .xIrq c) rfl
    (xInterrupt_sameRegs c s), fun h => ?_, fun v h => ?_⟩
  · rw [xInterrupt_of_failing c ((busRead16_eq_none_iff c s).mp h)]
    exact busFail_blockBecomes s
  · obtain ⟨hok, rfl⟩ := (busRead16_eq_some_iff c s v).mp h
    rw [xInterrupt_of_ok c hok]
    refine ⟨fun hroom => ?_, fun n hcap hle => ?_⟩
    · rw [scheduleX_of_room c _ (by rw [hasRoom_busAfter, hasRoom_iff]; exact hroom), dueTime_busAfter, busAfter_block]
      exact ⟨by simp [dueTime], rfl, rfl⟩
    · have hfull : ¬ hasRoom s.block.pendx.length s = true := by
        rw [hasRoom_bounded hcap]
        omega
      rw [scheduleX_of_full c _ (by rwa [hasRoom_busAfter])]
      exact ⟨by simp, rfl, rfl⟩

/-- The inverted port word, as the number R85 subtracts it from. -/
theorem invertPort_eq_sub (v : Half) : invertPort v = 0xFFFF - v :=
  (BitVec.allOnes_sub_eq_not v).symm

theorem indicatorOf_eq_decide (w : Half) : indicatorOf w = decide (w ≠ 0) := by
  rw [Bool.eq_iff_iff]
  simp [indicatorOf]

/-- The indicator of a confirmed word is LED.0 or LED.1 (R85). -/
theorem exec_indicator (w : Half) (s : State) :
    exec (if w = 0 then .led0 else .led1) s = .next (setLed (indicatorOf w) s) := by
  rw [indicatorOf_eq_decide]
  by_cases h : w = 0
  · rw [if_pos h, decide_eq_false (not_not.mpr h)]
    rfl
  · rw [if_neg h, decide_eq_true h]
    rfl

/-- Settles O25: by whether the read fails, and then by whether the snapshots are equal. -/
theorem comparatorDecidesByTheSnapshots : Obligations.ComparatorDecidesByTheSnapshots := by
  intro c snap s
  refine ⟨encode_chip_toNat 0x23 rfl rfl rfl, xConfirm c snap s, rfl, fun h => ?_, fun v h => ?_⟩
  · rw [xConfirm_of_failing c snap ((busRead16_eq_none_iff c s).mp h)]
    exact busFail_blockBecomes s
  · obtain ⟨hok, rfl⟩ := (busRead16_eq_some_iff c s v).mp h
    refine ⟨fun hne => xConfirm_of_ne hok hne, fun heq => ?_⟩
    rw [← invertPort_eq_sub]
    refine ⟨mapWord c (invertPort (portWord c s)) (busAfter s), rfl, ?_⟩
    rw [exec_indicator, xConfirm_of_eq hok heq, heq]

/-! ### The two chips -/

/-- MAPW as one write of the three registers of the player (R101, R13 (d)). -/
theorem mapWord_eq (p : Player) (w : Half) (s : State) : mapWord p w s =
    { s with block := { s.block with
      ax := s.block.ax.set p (wordX w).toByte
      ay := s.block.ay.set p (wordY w).toByte
      bt := s.block.bt.set p (Vector.ofFn (wordFlag w)) } } := by
  have hx : (mapWord p w s).block.ax = s.block.ax.set p (wordX w).toByte := by
    refine Vector.ext fun i hi => ?_
    have h := readAx_mapWord p ⟨i, hi⟩ w s
    simpa [readAx, Fin.ext_iff, Vector.getElem_set] using h
  have hy : (mapWord p w s).block.ay = s.block.ay.set p (wordY w).toByte := by
    refine Vector.ext fun i hi => ?_
    have h := readAy_mapWord p ⟨i, hi⟩ w s
    simpa [readAy, Fin.ext_iff, Vector.getElem_set] using h
  have hb : (mapWord p w s).block.bt = s.block.bt.set p (Vector.ofFn (wordFlag w)) := by
    refine Vector.ext fun i hi => Vector.ext fun k hk => ?_
    have h := readBt_mapWord p ⟨i, hi⟩ w ⟨k, hk⟩ s
    by_cases hp : p.val = i
    · simpa [readBt, Fin.ext_iff, Vector.getElem_set, hp] using h
    · simpa [readBt, Fin.ext_iff, Vector.getElem_set, hp] using h
  rw [← hx, ← hy, ← hb]
  exact mapWord_sameButRegs p w s

/-- What an operation of chip `c` reads is the same in `s` and `t`: the block, the build, whether the bus fails, and
the chip's own port. -/
structure SameForChip (c : Chip) (s t : State) : Prop where
  block : t.block = s.block
  build : t.build = s.build
  failing : busFailing t = busFailing s
  port : portWord c t = portWord c s

/-- The port of another chip is not read (R94). -/
theorem execPort_sameForChip {c d : Chip} (h : d ≠ c) (v : Half) (s : State) :
    SameForChip c s (writePort d v (if v ≠ portWord d s then writeXirq d true s else s)) := by
  have hp (u : State) : portWord c (writePort d v u) = portWord c u := by rw [portWord_writePort, if_neg h]
  split
  · exact ⟨rfl, rfl, rfl, hp _⟩
  · exact ⟨rfl, rfl, rfl, hp _⟩

theorem SameForChip.xInitialise {c : Chip} {s t : State} (h : SameForChip c s t) :
    (xInitialise c t).block = (xInitialise c s).block := by
  obtain ⟨hblock, -, hfail, -⟩ := h
  rcases xInitialise_cases c s with ⟨hf, e⟩ | ⟨hf, e⟩
  · rw [e, xInitialise_of_failing c (hfail.trans hf)]
    simp [hblock]
  · rw [e, xInitialise_of_ok c (hfail.trans hf)]
    simp [hblock]

theorem SameForChip.xInterrupt {c : Chip} {s t : State} (h : SameForChip c s t) :
    (xInterrupt c t).block = (xInterrupt c s).block := by
  obtain ⟨hblock, hbuild, hfail, hport⟩ := h
  rcases xInterrupt_cases c s with ⟨hf, e⟩ | ⟨hf, e⟩
  · rw [e, xInterrupt_of_failing c (hfail.trans hf)]
    simp [hblock]
  · have hroom : hasRoom t.block.pendx.length t = hasRoom s.block.pendx.length s := by
      simp only [hasRoom, hblock, hbuild]
    rw [e, xInterrupt_of_ok c (hfail.trans hf), hport]
    simp only [scheduleX, hasRoom_busAfter, hroom]
    split
    · simp [dueTime, hblock, hbuild]
    · simp [hblock]

theorem mapWord_block_congr (p : Player) (w : Half) {s t : State} (h : t.block = s.block) :
    (mapWord p w t).block = (mapWord p w s).block := by
  rw [mapWord_eq, mapWord_eq, h]

theorem SameForChip.xConfirm {c : Chip} {s t : State} (h : SameForChip c s t) (snap : Half) :
    (xConfirm c snap t).block = (xConfirm c snap s).block := by
  obtain ⟨hblock, -, hfail, hport⟩ := h
  rcases xConfirm_cases c snap s with ⟨hf, e⟩ | ⟨hf, hv, e⟩ | ⟨hf, hv, e⟩
  · rw [e, xConfirm_of_failing c snap (hfail.trans hf)]
    simp [hblock]
  · rw [e, xConfirm_of_ne (hfail.trans hf) (hport ▸ hv)]
    simp [hblock]
  · rw [e, xConfirm_of_eq (hfail.trans hf) (hport.trans hv), setLed_block, setLed_block,
      mapWord_block_congr c _ (by simpa using hblock : (busAfter t).block = (busAfter s).block)]

theorem samePlayer_of_sameRegs {s t : State} (h : SameRegs s t) (p : Player) : SamePlayer p s t := by
  obtain ⟨hx, hy, hb⟩ := h
  simp [SamePlayer, readAx, readAy, readBt, hx, hy, hb]

theorem mapWord_samePlayer {p q : Player} (h : q ≠ p) (w : Half) (s : State) : SamePlayer q s (mapWord p w s) := by
  simp [SamePlayer, readAx_mapWord, readAy_mapWord, readBt_mapWord, h.symm]

theorem setLed_samePlayer (p : Player) (v : Bool) (s : State) : SamePlayer p s (setLed v s) :=
  ⟨rfl, rfl, fun _ => rfl⟩

theorem SamePlayer.trans {p : Player} {s t u : State} (h : SamePlayer p s t) (h' : SamePlayer p t u) :
    SamePlayer p s u := by
  obtain ⟨hx, hy, hb⟩ := h
  obtain ⟨hx', hy', hb'⟩ := h'
  exact ⟨hx'.trans hx, hy'.trans hy, fun k => (hb' k).trans (hb k)⟩

theorem xConfirm_samePlayer {c d : Chip} (h : d ≠ c) (snap : Half) (s : State) :
    SamePlayer d s (xConfirm c snap s) := by
  have hbus : SamePlayer d s (busAfter s) := samePlayer_of_sameRegs (sameRegs_of_block (busAfter_block s)) d
  rcases xConfirm_cases c snap s with ⟨_, e⟩ | ⟨_, _, e⟩ | ⟨_, _, e⟩ <;> rw [e]
  · exact samePlayer_of_sameRegs (busFail_sameRegs s) d
  · exact hbus
  · exact (hbus.trans (mapWord_samePlayer h _ _)).trans (setLed_samePlayer d _ _)

/-- Settles O30: by what each operation of a chip writes and reads. -/
theorem chipsAreIndependent : Obligations.ChipsAreIndependent := by
  intro c d i s hne hi t ht
  have hport (v : Half) {s' : State} (h : exec (.port d v) s = .next s') : SameForChip c s s' := by
    cases h
    exact execPort_sameForChip hne v s
  rcases hi with rfl | rfl | ⟨snap, rfl⟩ | ⟨w, rfl⟩ <;> cases ht
  · exact ⟨samePlayer_of_sameRegs (xInitialise_sameRegs c s) d, fun v s' h =>
      ⟨xInitialise c s', rfl, (hport v h).xInitialise⟩⟩
  · exact ⟨samePlayer_of_sameRegs (xInterrupt_sameRegs c s) d, fun v s' h =>
      ⟨xInterrupt c s', rfl, (hport v h).xInterrupt⟩⟩
  · exact ⟨xConfirm_samePlayer hne snap s, fun v s' h => ⟨xConfirm c snap s', rfl, (hport v h).xConfirm snap⟩⟩
  · exact ⟨mapWord_samePlayer hne w s, fun v s' h =>
      ⟨mapWord c w s', rfl, mapWord_block_congr c w (hport v h).block⟩⟩

end Sys2Proof.Machine

/-! PROOFS of the statements on the ticks of the I2C variant (spec/41_expander_debounce.md): what a tick can write, said
once, and from it the statements on any tick (O27) and on the first (O26). -/

namespace Sys2Proof.Machine

/-! ### What a tick of the I2C variant can write -/

/-- `t` is `s` but for what the operations of the expander engine write: the register file, the indicator, the store,
the status flags, the events, and `busf`, which does not grow. -/
structure EngineFrame (s t : State) : Prop where
  eq : t = { s with
    block := { s.block with
      ax := t.block.ax, ay := t.block.ay, bt := t.block.bt, led := t.block.led
      pendx := t.block.pendx, buserr := t.block.buserr, ovf := t.block.ovf }
    env := { s.env with xirq := t.env.xirq, busf := t.env.busf }
    choices := t.choices }
  busf : t.env.busf ≤ s.env.busf

theorem EngineFrame.refl (s : State) : EngineFrame s s := ⟨rfl, Nat.le_refl _⟩

theorem EngineFrame.build {s t : State} (h : EngineFrame s t) : t.build = s.build := by rw [h.eq]

theorem EngineFrame.trans {s t u : State} (h : EngineFrame s t) (h' : EngineFrame t u) : EngineFrame s u := by
  obtain ⟨heq, hbusf⟩ := h
  obtain ⟨heq', hbusf'⟩ := h'
  exact ⟨by rw [heq', heq], hbusf'.trans hbusf⟩

theorem setBuserr_engineFrame (s : State) : EngineFrame s (setBuserr s) := ⟨rfl, Nat.le_refl _⟩

theorem setLed_engineFrame (v : Bool) (s : State) : EngineFrame s (setLed v s) := ⟨rfl, Nat.le_refl _⟩

theorem setPendx_engineFrame (q : List XEntry) (s : State) : EngineFrame s (setPendx q s) := ⟨rfl, Nat.le_refl _⟩

theorem writeXirq_engineFrame (c : Chip) (v : Bool) (s : State) : EngineFrame s (writeXirq c v s) :=
  ⟨rfl, Nat.le_refl _⟩

theorem afterPopChoice_engineFrame (due : Nat) (s : State) : EngineFrame s (afterPopChoice due s) := by
  rcases afterPopChoice_cases due s with e | e <;> rw [e]
  · exact .refl s
  · exact ⟨rfl, Nat.le_refl _⟩

theorem busAfter_engineFrame (s : State) : EngineFrame s (busAfter s) := by
  obtain ⟨n, e⟩ := busAfter_eq s
  rw [e]
  exact ⟨rfl, Nat.sub_le _ _⟩

theorem scheduleX_engineFrame (c : Chip) (v : Half) (s : State) : EngineFrame s (scheduleX c v s) := by
  rcases scheduleX_cases c v s with ⟨_, e⟩ | ⟨_, e⟩ <;> rw [e] <;> exact ⟨rfl, Nat.le_refl _⟩

theorem mapWord_engineFrame (p : Player) (w : Half) (s : State) : EngineFrame s (mapWord p w s) := by
  rw [mapWord_eq]
  exact ⟨rfl, Nat.le_refl _⟩

theorem busFail_engineFrame (s : State) : EngineFrame s (setBuserr (busAfter s)) :=
  (busAfter_engineFrame s).trans (setBuserr_engineFrame _)

theorem xInitialise_engineFrame (c : Chip) (s : State) : EngineFrame s (xInitialise c s) := by
  rcases xInitialise_cases c s with ⟨_, e⟩ | ⟨_, e⟩ <;> rw [e]
  · exact busFail_engineFrame s
  · exact busAfter_engineFrame s

theorem xInterrupt_engineFrame (c : Chip) (s : State) : EngineFrame s (xInterrupt c s) := by
  rcases xInterrupt_cases c s with ⟨_, e⟩ | ⟨_, e⟩ <;> rw [e]
  · exact busFail_engineFrame s
  · exact (busAfter_engineFrame s).trans (scheduleX_engineFrame c _ _)

theorem xConfirm_engineFrame (c : Chip) (snap : Half) (s : State) : EngineFrame s (xConfirm c snap s) := by
  rcases xConfirm_cases c snap s with ⟨_, e⟩ | ⟨_, _, e⟩ | ⟨_, _, e⟩ <;> rw [e]
  · exact busFail_engineFrame s
  · exact busAfter_engineFrame s
  · exact ((busAfter_engineFrame s).trans (mapWord_engineFrame c _ _)).trans (setLed_engineFrame _ _)

theorem confirmPhaseX_engineFrame (s : State) : EngineFrame s (confirmPhaseX s.block.pendx s) :=
  confirmPhaseX_preserves (P := EngineFrame s) (fun due t h => h.trans (afterPopChoice_engineFrame due t))
    (fun _ _ _ h _ _ => ((h.trans (afterPopChoice_engineFrame _ _)).trans (setPendx_engineFrame _ _)).trans
      (xConfirm_engineFrame _ _ _)) xConfirm_pendx _ s rfl (.refl s)

theorem serveChip_engineFrame (c : Chip) (s : State) : EngineFrame s (serveChip s c) := by
  rcases serveChip_cases s c with ⟨_, e⟩ | ⟨_, e⟩ <;> rw [e]
  · exact .refl s
  · exact (writeXirq_engineFrame c false s).trans (xInterrupt_engineFrame c _)

theorem interruptPhase_engineFrame (s : State) : EngineFrame s (interruptPhase s) :=
  foldl_preserves (P := EngineFrame s) _ (fun c t h => h.trans (serveChip_engineFrame c t)) _ s (.refl s)

/-! ### The events -/

theorem xInterrupt_xirq (c : Chip) (s : State) : (xInterrupt c s).env.xirq = s.env.xirq := by
  rcases xInterrupt_cases c s with ⟨_, e⟩ | ⟨_, e⟩ <;> simp [e]

theorem xConfirm_xirq (c : Chip) (snap : Half) (s : State) : (xConfirm c snap s).env.xirq = s.env.xirq := by
  rcases xConfirm_cases c snap s with ⟨_, e⟩ | ⟨_, _, e⟩ | ⟨_, _, e⟩ <;> simp [e, mapWord_eq]

/-- Serving a chip clears its event and no other (R80). -/
theorem xirqBit_serveChip (c d : Chip) (s : State) :
    xirqBit d (serveChip s c) = if c = d then false else xirqBit d s := by
  rcases serveChip_cases s c with ⟨hc, e⟩ | ⟨_, e⟩ <;> rw [e]
  · by_cases h : c = d
    · rw [if_pos h, ← h, hc]
    · rw [if_neg h]
  · rw [xirqBit_congr (xInterrupt_xirq c _), xirqBit_writeXirq]

/-- The two chips in order. -/
theorem interruptPhase_eq (s : State) : interruptPhase s = serveChip (serveChip s 0) 1 := rfl

theorem xirqBit_interruptPhase (c : Chip) (s : State) : xirqBit c (interruptPhase s) = false := by
  rw [interruptPhase_eq, xirqBit_serveChip, xirqBit_serveChip]
  match c with
  | 0 => rfl
  | 1 => rfl

theorem xirqBit_bootX (c : Chip) (s : State) : xirqBit c (bootX s) = false := by
  have h : xirqBit c (bootX s) =
      xirqBit c (writeXirq 1 false (writeXirq 0 false (xInitialise 1 (xInitialise 0 s)))) := rfl
  rw [h, xirqBit_writeXirq, xirqBit_writeXirq]
  match c with
  | 0 => rfl
  | 1 => rfl

theorem tickBodyX_armed {s : State} (ha : s.block.armed = true) :
    tickBodyX s = interruptPhase (confirmPhaseX s.block.pendx s) :=
  if_pos ha

theorem tickBodyX_unarmed {s : State} (ha : s.block.armed = false) : tickBodyX s = bootX s := by
  simp [tickBodyX, ha]

/-- The body of a tick, which ends armed, and before that what the engine writes. -/
theorem tickBodyX_eq (s : State) : ∃ u, EngineFrame s u ∧ tickBodyX s = arm u := by
  cases ha : s.block.armed
  · rw [tickBodyX_unarmed ha]
    exact ⟨_, (((xInitialise_engineFrame 0 s).trans (xInitialise_engineFrame 1 _)).trans
      (writeXirq_engineFrame 0 false _)).trans (writeXirq_engineFrame 1 false _), rfl⟩
  · have h := (confirmPhaseX_engineFrame s).trans (interruptPhase_engineFrame _)
    refine ⟨_, h, ?_⟩
    rw [tickBodyX_armed ha, arm, h.eq, ← ha]

theorem xirqBit_tickBodyX (c : Chip) (s : State) : xirqBit c (tickBodyX s) = false := by
  unfold tickBodyX
  split
  · exact xirqBit_interruptPhase c _
  · exact xirqBit_bootX c s

theorem tickExpander_block (s : State) :
    (tickExpander s).block = { (tickBodyX s).block with now := s.block.now + 1 } := by
  obtain ⟨u, hu, e⟩ := tickBodyX_eq s
  rw [tickExpander, endTick_block, e, hu.eq]
  rfl

theorem tickExpander_env (s : State) : (tickExpander s).env = (tickBodyX s).env := endTick_env _

theorem tickExpander_build (s : State) : (tickExpander s).build = s.build := tickOf_build .i2c s

theorem xirqBit_tickExpander (c : Chip) (s : State) : xirqBit c (tickExpander s) = false :=
  (xirqBit_congr (by rw [tickExpander_env]) c).trans (xirqBit_tickBodyX c s)

/-- Settles O27: what a tick can write, armed or not. -/
theorem tickXAlwaysCompletes : Obligations.TickXAlwaysCompletes := by
  refine ⟨rfl, fun s => ⟨tickExpander s, rfl, ?_⟩⟩
  obtain ⟨u, hu, e⟩ := tickBodyX_eq s
  have hbusf := hu.busf
  have hbody : (tickBodyX s).env = { s.env with xirq := u.env.xirq, busf := u.env.busf } := by
    rw [e, hu.eq]
    rfl
  rw [tickExpander_block, tickExpander_env, hbody, e]
  refine ⟨rfl, rfl, fun c => xirqBit_tickExpander c s, rfl, rfl, rfl, hbusf, ?_, ?_⟩
  · rw [hu.eq]; rfl
  · rw [hu.eq]; rfl

/-! ### The first tick -/

/-- X.INIT where the bus fails only by `busf`: `BUSERR` where a failure was pending, and one less pending (R82, R92). -/
theorem xInitialise_of_not_free {s : State} (c : Chip) (hf : s.build.freeBus = false) : xInitialise c s =
    { s with
      block := { s.block with buserr := s.block.buserr || 0 < s.env.busf }
      env := { s.env with busf := s.env.busf - 1 } } := by
  have hafter : busAfter s = writeBusf (s.env.busf - 1) s := busAfter_of_not_free hf
  by_cases h : 0 < s.env.busf
  · rw [xInitialise_of_failing c (busFailing_of_busf_pos h), hafter]
    simp [setBuserr, writeBusf, h]
  · have hok : busFailing s = false := by simp [busFailing_of_not_free hf, h]
    rw [xInitialise_of_ok c hok, hafter]
    simp [writeBusf, h]

theorem bootX_eq (s : State) : ∃ x, bootX s =
    { xInitialise 1 (xInitialise 0 s) with
      block := { (xInitialise 1 (xInitialise 0 s)).block with armed := true }
      env := { (xInitialise 1 (xInitialise 0 s)).env with xirq := x } } :=
  ⟨_, rfl⟩

/-- Settles O26: the boot is X.INIT 0 and X.INIT 1; its report phase reaches the agent only. -/
theorem firstTickBootsTheChips : Obligations.FirstTickBootsTheChips := by
  intro s ha
  refine ⟨tickExpander s, rfl, ?_⟩
  intro d
  obtain ⟨x, e⟩ := bootX_eq s
  have hd : d = xInitialise 1 (xInitialise 0 s) := rfl
  have hblock : (tickExpander s).block = { d.block with armed := true, now := s.block.now + 1 } := by
    rw [tickExpander_block, tickBodyX_unarmed ha, e, ← hd]
  have henv : (tickExpander s).env = { d.env with xirq := (tickExpander s).env.xirq } := by
    rw [tickExpander_env, tickBodyX_unarmed ha, e, ← hd]
  refine ⟨hblock, henv, fun c => xirqBit_tickExpander c s, fun hf => ?_⟩
  have h0 := xInitialise_of_not_free 0 hf
  have h1 : d = _ := xInitialise_of_not_free 1 (s := xInitialise 0 s) (by rw [h0]; exact hf)
  rw [h0] at h1
  have hflag : (s.block.buserr || decide (0 < s.env.busf) || decide (0 < s.env.busf - 1)) =
      (s.block.buserr || decide (0 < s.env.busf)) := by
    by_cases h : 0 < s.env.busf
    · simp [h]
    · have h' : ¬ 0 < s.env.busf - 1 := by omega
      simp [h, h']
  refine ⟨?_, ?_⟩
  · rw [hblock, h1]
    simp only [hflag]
  · rw [henv, h1]
    rfl

end Sys2Proof.Machine

/-! PROOF of the statement on armed ticks of the I2C variant (spec/41_expander_debounce.md): confirmations of the first
entries of the store, then interrupts, for any latency, store and bus (O28). -/

namespace Sys2Proof.Machine

/-! ### The confirm phase -/

/-- These entries confirmed in order, each after the question put for it, and then the question put for the head `next`
of those that stay (R65 corner case (d), R80). -/
def confirmEntries (es : List XEntry) (next : Option XEntry) (s : State) : State :=
  next.elim id (fun e => afterPopChoice e.due)
    (es.foldl (fun u e => xConfirm e.chip e.snap (afterPopChoice e.due u)) s)

/-- The first `k` entries taken off the store and confirmed. -/
def confirmFirstX (k : Nat) (s : State) : State :=
  confirmEntries (s.block.pendx.take k) (s.block.pendx.drop k).head? (setPendx (s.block.pendx.drop k) s)

/-- What confirmations write: as the engine, but neither the store nor `OVF` nor an event; and `BUSERR` only where a
transaction fails. -/
structure Confirmed (s t : State) : Prop extends EngineFrame s t where
  pendx : t.block.pendx = s.block.pendx
  ovf : t.block.ovf = s.block.ovf
  xirq : t.env.xirq = s.env.xirq
  buserr : s.env.busf = 0 → s.build.freeBus = false → t.block.buserr = s.block.buserr

theorem Confirmed.refl (s : State) : Confirmed s s := ⟨.refl s, rfl, rfl, rfl, fun _ _ => rfl⟩

theorem Confirmed.trans {s t u : State} (h : Confirmed s t) (h' : Confirmed t u) : Confirmed s u where
  toEngineFrame := h.toEngineFrame.trans h'.toEngineFrame
  pendx := h'.pendx.trans h.pendx
  ovf := h'.ovf.trans h.ovf
  xirq := h'.xirq.trans h.xirq
  buserr h0 hf := by
    have hbusf := h.busf
    exact (h'.buserr (by omega) (by rw [h.build, hf])).trans (h.buserr h0 hf)

theorem afterPopChoice_confirmed (due : Nat) (s : State) : Confirmed s (afterPopChoice due s) :=
  ⟨afterPopChoice_engineFrame due s, by simp, by simp, by simp, fun _ _ => by simp⟩

theorem xConfirm_ovf (c : Chip) (snap : Half) (s : State) : (xConfirm c snap s).block.ovf = s.block.ovf := by
  rcases xConfirm_cases c snap s with ⟨_, e⟩ | ⟨_, _, e⟩ | ⟨_, _, e⟩ <;> simp [e, mapWord_eq]

theorem xConfirm_buserr {s : State} (c : Chip) (snap : Half) (h : busFailing s = false) :
    (xConfirm c snap s).block.buserr = s.block.buserr := by
  rcases xConfirm_cases c snap s with ⟨hf, _⟩ | ⟨_, _, e⟩ | ⟨_, _, e⟩
  · rw [h] at hf
    cases hf
  · simp [e]
  · simp [e, mapWord_eq]

theorem xConfirm_confirmed (c : Chip) (snap : Half) (s : State) : Confirmed s (xConfirm c snap s) :=
  ⟨xConfirm_engineFrame c snap s, xConfirm_pendx c snap s, xConfirm_ovf c snap s, xConfirm_xirq c snap s,
    fun h0 hf => xConfirm_buserr c snap (bus_quiet h0 hf).1⟩

theorem confirmEntries_confirmed (es : List XEntry) (next : Option XEntry) (s : State) :
    Confirmed s (confirmEntries es next s) := by
  have h : Confirmed s (es.foldl (fun u e => xConfirm e.chip e.snap (afterPopChoice e.due u)) s) :=
    foldl_preserves (P := Confirmed s) _
      (fun e t h => (h.trans (afterPopChoice_confirmed e.due t)).trans (xConfirm_confirmed e.chip e.snap _)) es s
      (.refl s)
  cases next with
  | none => exact h
  | some e => exact h.trans (afterPopChoice_confirmed e.due _)

theorem confirmFirstX_confirmed (k : Nat) (s : State) :
    Confirmed (setPendx (s.block.pendx.drop k) s) (confirmFirstX k s) :=
  confirmEntries_confirmed _ _ _

/-- Confirmations with a bus that does not fail. -/
theorem Confirmed.eq_of_quiet {s t : State} (h : Confirmed s t) (h0 : s.env.busf = 0) (hf : s.build.freeBus = false) :
    ∃ ax ay bt led n, t = { s with
      block := { s.block with ax := ax, ay := ay, bt := bt, led := led }
      choices := n } := by
  have hbusf : t.env.busf = s.env.busf := by
    have := h.busf
    omega
  refine ⟨t.block.ax, t.block.ay, t.block.bt, t.block.led, t.choices, ?_⟩
  conv_lhs => rw [h.eq]
  rw [hbusf, h.pendx, h.ovf, h.xirq, h.buserr h0 hf]

theorem confirmPhaseX_eq_confirmFirstX (s : State) :
    ∃ k, (s.block.pendx.takeWhile (fun e => e.due + s.build.confirmLatencyMax ≤ s.block.now)).length ≤ k ∧
      k ≤ (s.block.pendx.takeWhile (fun e => e.due ≤ s.block.now)).length ∧
      confirmPhaseX s.block.pendx s = confirmFirstX k s :=
  confirmPhaseX_prefix s.block.pendx s rfl

theorem confirmPhaseX_xirq (s : State) : (confirmPhaseX s.block.pendx s).env.xirq = s.env.xirq := by
  obtain ⟨k, -, -, e⟩ := confirmPhaseX_eq_confirmFirstX s
  rw [e]
  exact (confirmFirstX_confirmed k s).xirq

/-! ### The interrupt phase -/

/-- The entry that an interrupt of chip `c` schedules (R83). -/
def snapshotEntry (s : State) (c : Chip) : XEntry := ⟨c, portWord c s, dueTime s⟩

theorem serveChip_eq_ite (s : State) (c : Chip) :
    serveChip s c = if xirqBit c s then xInterrupt c (writeXirq c false s) else s := rfl

/-- Serving one chip does not change which other chips have an event. -/
theorem interruptPhase_eq_foldl {s u : State} (h : u.env.xirq = s.env.xirq) : interruptPhase u =
    (List.finRange 2).foldl (fun v c => if xirqBit c s then xInterrupt c (writeXirq c false v) else v) u := by
  have h0 : xirqBit 0 u = xirqBit 0 s := xirqBit_congr h 0
  have h1 : xirqBit 1 (serveChip u 0) = xirqBit 1 s := by
    rw [xirqBit_serveChip, if_neg (by decide), xirqBit_congr h]
  rw [interruptPhase_eq, serveChip_eq_ite (serveChip u 0), h1, serveChip_eq_ite u, h0]
  rfl

/-- X.IRQ with a bus that does not fail and a store that has room (R83). -/
theorem xInterrupt_quiet {s : State} (c : Chip) (h0 : s.env.busf = 0) (hf : s.build.freeBus = false)
    (hroom : hasRoom s.block.pendx.length s = true) :
    xInterrupt c s = setPendx (s.block.pendx ++ [snapshotEntry s c]) s := by
  obtain ⟨hok, hbus⟩ := bus_quiet h0 hf
  rw [xInterrupt_of_ok c hok, hbus, scheduleX_of_room c _ hroom]
  rfl

theorem writeXirq_self {c : Chip} {v : Bool} {s : State} (h : xirqBit c s = v) : writeXirq c v s = s := by
  have hset : s.env.xirq.set c v = s.env.xirq := by
    subst h
    simp [xirqBit]
  unfold writeXirq
  rw [hset]

/-- A chip served with a bus that does not fail and a store that has room: its event, if there is one, becomes an
entry. -/
theorem serveChip_quiet {s : State} (c : Chip) (h0 : s.env.busf = 0) (hf : s.build.freeBus = false)
    (hroom : hasRoom s.block.pendx.length s = true) :
    serveChip s c =
      setPendx (s.block.pendx ++ if xirqBit c s then [snapshotEntry s c] else []) (writeXirq c false s) := by
  rcases serveChip_cases s c with ⟨hc, e⟩ | ⟨hc, e⟩ <;> rw [e, hc]
  · rw [writeXirq_self hc, if_neg (by decide), List.append_nil]
    rfl
  · exact xInterrupt_quiet c h0 hf hroom

/-- The interrupt phase with a bus that does not fail and an unbounded store: an entry for each event, in ascending
order of the chips. -/
theorem interruptPhase_quiet {s : State} (hcap : s.build.pendingCap = none) (h0 : s.env.busf = 0)
    (hf : s.build.freeBus = false) : ∃ x, interruptPhase s = { s with
      block := { s.block with
        pendx := s.block.pendx ++ ((List.finRange 2).filter fun c => xirqBit c s).map (snapshotEntry s) }
      env := { s.env with xirq := x } } := by
  have e := serveChip_quiet 0 h0 hf (hasRoom_unbounded hcap _)
  have h1 : xirqBit 1 (serveChip s 0) = xirqBit 1 s := by
    rw [xirqBit_serveChip, if_neg (by decide)]
  have hentries : ((List.finRange 2).filter fun c => xirqBit c s).map (snapshotEntry s) =
      (if xirqBit 0 s then [snapshotEntry s 0] else []) ++ if xirqBit 1 s then [snapshotEntry s 1] else [] := by
    have hchips : List.finRange 2 = [0, 1] := rfl
    rw [hchips, List.filter_cons, List.filter_cons, List.filter_nil]
    cases xirqBit 0 s <;> cases xirqBit 1 s <;> rfl
  refine ⟨(s.env.xirq.set 0 false).set 1 false, ?_⟩
  rw [interruptPhase_eq, serveChip_quiet 1 (by rw [e]; exact h0) (by rw [e]; exact hf)
    (hasRoom_unbounded (by rw [e]; exact hcap) _), h1, e, hentries, ← List.append_assoc]
  rfl

/-! ### An armed tick -/

/-- With any latency window: the first `k` entries are confirmed, then the events served (R80). -/
theorem tickBodyX_prefix {s : State} (ha : s.block.armed = true) :
    ∃ k, (s.block.pendx.takeWhile (fun e => e.due + s.build.confirmLatencyMax ≤ s.block.now)).length ≤ k ∧
      k ≤ (s.block.pendx.takeWhile (fun e => e.due ≤ s.block.now)).length ∧
      tickBodyX s = interruptPhase (confirmFirstX k s) := by
  obtain ⟨k, hlo, hhi, e⟩ := confirmPhaseX_eq_confirmFirstX s
  exact ⟨k, hlo, hhi, by rw [tickBodyX_armed ha, e]⟩

/-- Settles O28: the two phases of an armed tick, written as operations. -/
theorem tickXConfirmsThenServes : Obligations.TickXConfirmsThenServes := by
  intro s ha
  obtain ⟨k, hlo, hhi, e⟩ := tickBodyX_prefix ha
  refine ⟨tickExpander s, k, rfl, hlo, hhi, ?_⟩
  intro popped rest c d
  have hc : c = confirmFirstX k s := rfl
  have hconf : Confirmed (setPendx rest s) c := confirmFirstX_confirmed k s
  have hd : d = interruptPhase c := (interruptPhase_eq_foldl hconf.xirq).symm
  have hbody : tickBodyX s = d := by rw [e, hd, hc]
  have hblock : (tickExpander s).block = { d.block with now := s.block.now + 1 } := by
    rw [tickExpander_block, hbody]
  have henv : (tickExpander s).env = d.env := by rw [tickExpander_env, hbody]
  refine ⟨hblock, henv, fun hcap hf h0 => ?_, fun ht => ?_⟩
  · obtain ⟨ax, ay, bt, led, n, hceq⟩ := hconf.eq_of_quiet h0 hf
    obtain ⟨x, hdeq⟩ := interruptPhase_quiet (s := c) (by rw [hceq]; exact hcap) (by rw [hceq]; exact h0)
      (by rw [hceq]; exact hf)
    rw [henv, hblock, hd, hdeq, hceq]
    exact ⟨rfl, rfl⟩
  · obtain ⟨hagent, -, hbuild, hnow⟩ := hbody ▸ tickBodyX_sameReader s
    rw [tickExpander, hbody, endTick_agent_report (by rw [hbuild, ht]), hagent]
    simp only [isReportTick_iff, hnow, hbuild, after_rtick]

end Sys2Proof.Machine

/-! PROOFS of the statements on what follows an event of a chip (spec/41_expander_debounce.md): the next tick serves it
(O21), and in a quiet block the chip's port is decoded `DEBOUNCE_TICKS` later (O29). -/

namespace Sys2Proof.Machine

/-! ### The tick that serves an event -/

/-- The interrupt that was to schedule `e` has been served: the entry stands in the store, or a status flag says why
not (R83). -/
def Served (e : XEntry) (s : State) : Prop := e ∈ s.block.pendx ∨ s.block.buserr = true ∨ s.block.ovf = true

theorem Served.edit {e : XEntry} {v : Variant} {s t : State} (h : Served e s) (he : Edit v s t) : Served e t := by
  obtain ⟨hbuserr, hovf⟩ := (PhaseStep.edit he).keepsFlags
  rcases h with hmem | hb | ho
  · exact .inl (he.pendx_subset hmem)
  · exact .inr (.inl (hbuserr hb))
  · exact .inr (.inr (hovf ho))

theorem xInterrupt_served (c : Chip) (s : State) : Served (snapshotEntry s c) (xInterrupt c s) := by
  rcases xInterrupt_cases c s with ⟨_, e⟩ | ⟨_, e⟩ <;> rw [e]
  · exact .inr (.inl rfl)
  · rcases scheduleX_cases c (portWord c s) (busAfter s) with ⟨_, e⟩ | ⟨_, e⟩ <;> rw [e]
    · refine .inl (List.mem_append_right _ ?_)
      rw [dueTime_busAfter]
      exact List.mem_singleton_self _
    · exact .inr (.inr rfl)

theorem serveChip_served {c : Chip} {s : State} (h : xirqBit c s = true) :
    Served (snapshotEntry s c) (serveChip s c) := by
  rw [serveChip_eq_ite, if_pos h]
  exact xInterrupt_served c (writeXirq c false s)

theorem serveChip_edits (c : Chip) (s : State) : Edits .i2c s (serveChip s c) := by
  rcases serveChip_cases s c with ⟨_, e⟩ | ⟨_, e⟩ <;> rw [e]
  · exact .refl
  · exact (Edits.ofQuiet (writeXirq_quiet c false s)).trans (xInterrupt_edits c _)

theorem EngineFrame.snapshotEntry {s t : State} (h : EngineFrame s t) (c : Chip) :
    snapshotEntry t c = snapshotEntry s c := by
  rw [h.eq]
  rfl

theorem interruptPhase_served {c : Chip} {s : State} (h : xirqBit c s = true) :
    Served (snapshotEntry s c) (interruptPhase s) := by
  rw [interruptPhase_eq]
  match c with
  | 0 => exact kept_along (fun _ _ he hs => hs.edit he) (serveChip_edits 1 _) (serveChip_served h)
  | 1 =>
    have h1 : xirqBit 1 (serveChip s 0) = true := by rw [xirqBit_serveChip, if_neg (by decide), h]
    rw [← (serveChip_engineFrame 0 s).snapshotEntry]
    exact serveChip_served h1

theorem tickExpander_served {c : Chip} {s : State} (ha : s.block.armed = true) (h : xirqBit c s = true) :
    Served (snapshotEntry s c) (tickExpander s) := by
  have hserved : Served (snapshotEntry s c) (tickBodyX s) := by
    rw [tickBodyX_armed ha, ← (confirmPhaseX_engineFrame s).snapshotEntry]
    exact interruptPhase_served ((xirqBit_congr (confirmPhaseX_xirq s) c).trans h)
  simpa only [Served, tickExpander_block] using hserved

/-- With an unbounded store and a bus that does not fail the entry stands in the store. -/
theorem snapshotEntry_mem_tickExpander {c : Chip} {s : State} (ha : s.block.armed = true) (h : xirqBit c s = true)
    (hcap : s.build.pendingCap = none) (hf : s.build.freeBus = false) (h0 : s.env.busf = 0) :
    snapshotEntry s c ∈ (tickExpander s).block.pendx := by
  obtain ⟨t, k, ht, -, -, -, -, hquiet, -⟩ := tickXConfirmsThenServes s ha
  cases ht
  rw [(hquiet hcap hf h0).2]
  refine List.mem_append_right _ (List.mem_map.mpr ⟨c, ?_, rfl⟩)
  simp [h]

/-- PORT raises an event on a change and leaves one that stands (R86). -/
theorem xirqBit_execPort (c d : Chip) (v : Half) (s : State) :
    xirqBit d (writePort c v (if v ≠ portWord c s then writeXirq c true s else s)) =
      if c = d ∧ v ≠ portWord c s then true else xirqBit d s := by
  have hport (u : State) : xirqBit d (writePort c v u) = xirqBit d u := rfl
  rw [hport]
  by_cases hv : v = portWord c s
  · rw [if_neg (not_not.mpr hv), if_neg fun h => h.2 hv]
  · rw [if_pos hv, xirqBit_writeXirq]
    simp only [hv, ne_eq, not_false_eq_true, and_true]

theorem execPort_envBecomes (c : Chip) (v : Half) (s : State) :
    let t := writePort c v (if v ≠ portWord c s then writeXirq c true s else s)
    EnvBecomes s t { s.env with port := t.env.port, xirq := t.env.xirq } := by
  split <;> exact ⟨rfl, rfl, rfl⟩

/-- Settles O21: each operation writes the elements of its chip; the next tick serves the event of IRQ. -/
theorem portAndIrqRaiseEvents : Obligations.PortAndIrqRaiseEvents := by
  intro c s
  refine ⟨encode_chip_toNat 0x21 rfl rfl rfl, fun v => encode_chip_toNat 0x20 rfl rfl rfl,
    ⟨writeXirq c true s, rfl, ⟨rfl, rfl, rfl⟩, ?_⟩,
    fun v => ⟨_, rfl, execPort_envBecomes c v s, ?_⟩⟩
  · have hx : xirqBit c (writeXirq c true s) = true := by rw [xirqBit_writeXirq, if_pos rfl]
    refine ⟨hx, fun d hd => ?_, fun _ => rfl, congrArg Host.Outcome.next (writeXirq_self hx), fun ha =>
      ⟨tickExpander (writeXirq c true s), rfl, xirqBit_tickExpander c _, tickExpander_served ha hx,
        snapshotEntry_mem_tickExpander (s := writeXirq c true s) ha hx⟩⟩
    rw [xirqBit_writeXirq, if_neg hd.symm]
  · refine ⟨?_, fun d hd => ⟨?_, ?_⟩, ?_, ?_⟩
    · rw [portWord_writePort, if_pos rfl]
    · rw [portWord_writePort, if_neg hd.symm]
      split <;> rfl
    · rw [xirqBit_execPort, if_neg fun h => hd h.1.symm]
    · rw [xirqBit_execPort]
      by_cases hv : v = portWord c s <;> simp [hv]
    · exact sameRecords_of_sameRegs (i := .port c v) rfl (execPort_sameRegs c v s)

/-! ### A quiet block -/

/-- No entry is due: nothing is confirmed and no question put. -/
theorem confirmPhaseX_waiting {q : List XEntry} {s : State} (h : ∀ e ∈ q, s.block.now < e.due) :
    confirmPhaseX q s = s := by
  cases q with
  | nil => rfl
  | cons e rest =>
    have he : ¬ e.due ≤ s.block.now := Nat.not_le.mpr (h e List.mem_cons_self)
    have hp : popsNow e.due s = false := by simp [popsNow, he]
    simp [confirmPhaseX, hp, afterPopChoice, he]

/-- With an event of one chip at most, the interrupt phase serves that chip. -/
theorem interruptPhase_lone {c : Chip} {s : State} (h : ∀ d : Chip, d ≠ c → xirqBit d s = false) :
    interruptPhase s = serveChip s c := by
  rw [interruptPhase_eq]
  match c with
  | 0 =>
    have h1 : xirqBit 1 (serveChip s 0) = false := by
      rw [xirqBit_serveChip, if_neg (by decide), h 1 (by decide)]
    rw [serveChip_eq_ite (serveChip s 0), h1]
    rfl
  | 1 =>
    have h0 : serveChip s 0 = s := by
      rw [serveChip_eq_ite, h 0 (by decide)]
      rfl
    rw [h0]

theorem interruptPhase_idle {s : State} (h : ∀ d, xirqBit d s = false) : interruptPhase s = s := by
  rw [interruptPhase_lone (c := 0) fun d _ => h d, serveChip_eq_ite, h 0]
  rfl

/-- A tick with nothing due and no event. -/
theorem tickExpander_quiet {s : State} (ha : s.block.armed = true) (hd : ∀ e ∈ s.block.pendx, s.block.now < e.due)
    (hx : ∀ d, xirqBit d s = false) :
    (tickExpander s).block = { s.block with now := s.block.now + 1 } ∧ (tickExpander s).env = s.env := by
  have hbody : tickBodyX s = s := by rw [tickBodyX_armed ha, confirmPhaseX_waiting hd, interruptPhase_idle hx]
  rw [tickExpander_block, tickExpander_env, hbody]
  exact ⟨rfl, rfl⟩

theorem advance_quietX (n : Nat) {s : State} (hv : s.build.variant = .i2c) (ha : s.block.armed = true)
    (hd : ∀ e ∈ s.block.pendx, s.block.now + n ≤ e.due) (hx : ∀ d, xirqBit d s = false) :
    (advance n s).block = { s.block with now := s.block.now + n } ∧ (advance n s).env = s.env ∧
      (advance n s).build = s.build := by
  induction n generalizing s with
  | zero => exact ⟨rfl, rfl, rfl⟩
  | succ n ih =>
    obtain ⟨htb, hte⟩ := tickExpander_quiet ha (fun e he => by have := hd e he; omega) hx
    have hbuild := tickExpander_build s
    obtain ⟨hblock, henv, hb⟩ := ih (s := tickExpander s) (by rw [hbuild, hv]) (by rw [htb]; exact ha)
      (fun e he => by
        rw [htb] at he ⊢
        have := hd e he
        show s.block.now + 1 + n ≤ e.due
        omega)
      (fun d => (xirqBit_congr (by rw [hte]) d).trans (hx d))
    rw [advance_succ, tick_i2c hv, hblock, henv, hb, htb, hte, hbuild]
    exact ⟨by simp only [Nat.add_assoc, Nat.add_comm 1 n], rfl, rfl⟩

theorem hasRoom_zero {s : State} (h : s.build.pendingCap ≠ some 0) : hasRoom 0 s = true :=
  (hasRoom_iff 0 s).mpr fun _ hn => Nat.pos_of_ne_zero fun h0 => h (h0 ▸ hn)

/-- The tick of a lone event: nothing to confirm, one entry (R83). -/
theorem tickExpander_loneEvent {s : State} {c : Chip} (ha : s.block.armed = true)
    (hcap : s.build.pendingCap ≠ some 0) (hp : s.block.pendx = []) (hf : s.build.freeBus = false)
    (h0 : s.env.busf = 0) (hx : xirqBit c s = true) (hne : ∀ d : Chip, d ≠ c → xirqBit d s = false) :
    (tickExpander s).block = { s.block with pendx := [snapshotEntry s c], now := s.block.now + 1 } ∧
      (tickExpander s).env = (writeXirq c false s).env := by
  have hroom : hasRoom s.block.pendx.length s = true := by rw [hp]; exact hasRoom_zero hcap
  have hbody : tickBodyX s = setPendx [snapshotEntry s c] (writeXirq c false s) := by
    rw [tickBodyX_armed ha, confirmPhaseX_waiting (by simp [hp]), interruptPhase_lone hne,
      serveChip_quiet c h0 hf hroom, hx, hp]
    rfl
  rw [tickExpander_block, tickExpander_env, hbody]
  exact ⟨rfl, rfl⟩

/-- A tick with no event whose only entry is due and matches its chip's port (R85). -/
theorem tickExpander_loneConfirm {w : State} {e : XEntry} (ha : w.block.armed = true)
    (hp : w.block.pendx = [e]) (hL : w.build.confirmLatencyMax = 0) (hd : e.due ≤ w.block.now)
    (hf : w.build.freeBus = false) (h0 : w.env.busf = 0) (hv : portWord e.chip w = e.snap)
    (hx : ∀ d, xirqBit d w = false) :
    (tickExpander w).block = { (mapWord e.chip (invertPort e.snap) (setPendx [] w)).block with
      led := indicatorOf (invertPort e.snap), now := w.block.now + 1 } ∧ (tickExpander w).env = w.env := by
  obtain ⟨hok, hbus⟩ := bus_quiet h0 hf
  have hconf : confirmPhaseX w.block.pendx w =
      setLed (indicatorOf (invertPort e.snap)) (mapWord e.chip (invertPort e.snap) (setPendx [] w)) := by
    rw [confirmPhaseX_exact w.block.pendx w rfl hL, hp]
    simp only [List.takeWhile_cons, List.dropWhile_cons, hd, decide_true, if_true, List.takeWhile_nil,
      List.dropWhile_nil, List.foldl_cons, List.foldl_nil]
    rw [xConfirm_setPendx, xConfirm_of_eq hok hv, hbus, mapWord_setPendx]
    rfl
  have hidle : ∀ d, xirqBit d (confirmPhaseX w.block.pendx w) = false := fun d => by
    rw [← hx d, hconf]
    exact xirqBit_congr (by simp [mapWord_eq]) d
  rw [tickExpander_block, tickExpander_env, tickBodyX_armed ha, interruptPhase_idle hidle, hconf]
  exact ⟨rfl, by simp [mapWord_eq]⟩

/-- From the tick of a lone event until its entry is due, that entry is pending and nothing else has changed. -/
theorem advance_loneEvent {s : State} {c : Chip} (hv : s.build.variant = .i2c) (ha : s.block.armed = true)
    (hcap : s.build.pendingCap ≠ some 0) (hp : s.block.pendx = []) (hf : s.build.freeBus = false)
    (h0 : s.env.busf = 0) (hx : xirqBit c s = true) (hne : ∀ d : Chip, d ≠ c → xirqBit d s = false) {k : Nat}
    (hpos : 0 < k) (hk : k ≤ s.build.debounceTicks) :
    (advance k s).block = { s.block with pendx := [snapshotEntry s c], now := s.block.now + k } ∧
      (advance k s).env = (writeXirq c false s).env ∧ (advance k s).build = s.build ∧
      ∀ d, xirqBit d (advance k s) = false := by
  obtain ⟨j, rfl⟩ : ∃ j, k = j + 1 := ⟨k - 1, by omega⟩
  obtain ⟨hfirst, hfirstEnv⟩ := tickExpander_loneEvent ha hcap hp hf h0 hx hne
  have hbuild := tickExpander_build s
  obtain ⟨hblock, henv, hb⟩ := advance_quietX j (s := tickExpander s) (by rw [hbuild, hv])
    (by rw [hfirst]; exact ha)
    (fun e he => by
      rw [hfirst] at he ⊢
      rw [List.mem_singleton.mp he]
      show s.block.now + 1 + j ≤ s.block.now + s.build.debounceTicks
      omega)
    (fun d => xirqBit_tickExpander d s)
  have hidle (d : Chip) : xirqBit d (advance j (tickExpander s)) = false :=
    (xirqBit_congr (by rw [henv]) d).trans (xirqBit_tickExpander d s)
  rw [advance_succ, tick_i2c hv]
  refine ⟨?_, by rw [henv, hfirstEnv], by rw [hb, hbuild], hidle⟩
  rw [hblock, hfirst]
  simp only [Nat.add_assoc, Nat.add_comm 1 j]

/-- Settles O29: the event's tick, then ticks in which nothing is due, then the tick in which its entry is. -/
theorem quietPortIsDecodedOnTime : Obligations.QuietPortIsDecodedOnTime := by
  intro s c hv ha hL hD hlt hcap hp hf h0 hx hne
  obtain ⟨hblock, henv, hb, hidle⟩ := advance_loneEvent hv ha hcap hp hf h0 hx hne hD (Nat.le_refl _)
  have hadv : advance (s.build.debounceTicks + 1) s = tickExpander (advance s.build.debounceTicks s) := by
    rw [advance_add, advance_succ, advance_zero, tick_i2c (by rw [hb, hv])]
  have hport : portWord c (advance s.build.debounceTicks s) = portWord c s := portWord_congr (by rw [henv]; rfl) c
  obtain ⟨hlast, hlastEnv⟩ := tickExpander_loneConfirm (e := snapshotEntry s c) (by rw [hblock]; exact ha)
    (by rw [hblock]) (by rw [hb, hL]) (by rw [hblock]; exact Nat.le_refl _) (by rw [hb, hf])
    (by rw [henv]; exact h0) hport hidle
  refine ⟨_, _, exec_adv_ofNat hlt s, rfl, ?_, ?_, ?_⟩
  · rw [hadv, hlast, ← invertPort_eq_sub, ← indicatorOf_eq_decide, mapWord_eq, mapWord_eq, setPendx_block, hblock,
      ← hp]
    rfl
  · rw [hadv, hlastEnv, henv]
    rfl
  · rw [hadv]
    exact fun d => xirqBit_tickExpander d _

end Sys2Proof.Machine

/-! PROOFS of the statements on the state mapper (spec/42_state_mapper.md): a write of what a register holds changes
nothing, and a record byte follows the registers it shows; from these the axis writes (O4), the flag writes (O5), the
indicator (O6), the decode of a word (O7), the write a line names (O8) and idempotence (O9). -/

namespace Sys2Proof.Machine

/-! ### The words of operations with a player -/

/-- An axis value lies in `d` as the byte it is (R58). -/
theorem encode_axis_toNat {i : Instr} {p : Player} {v : AxisLevel} (op : Byte) {n : Nat} (hop : i.row.op = op)
    (hn : op.toNat * 2 ^ 24 = n) (ha : i.fieldA = BitVec.ofNat 8 p.val) (hd : i.fieldD = v.toByte.setWidth 16) :
    (encode i).toNat = n + p.val * 0x10000 + v.toByte.toNat := by
  rw [encode_chip_toNat op hop hn ha, hd, BitVec.toNat_setWidth_of_le (by decide)]

/-- A flag lies in `d` as its number (R58). -/
theorem encode_flag_toNat {i : Instr} {p : Player} {k : Flag} (op : Byte) {n : Nat} (hop : i.row.op = op)
    (hn : op.toNat * 2 ^ 24 = n) (ha : i.fieldA = BitVec.ofNat 8 p.val) (hd : i.fieldD = BitVec.ofNat 16 k.val) :
    (encode i).toNat = n + p.val * 0x10000 + k.val := by
  have hk : k.val % 2 ^ 16 = k.val := Nat.mod_eq_of_lt (by omega)
  rw [encode_chip_toNat op hop hn ha, hd, BitVec.toNat_ofNat, hk]

theorem decPlayer_of_two_le {a : Byte} (h : 2 ≤ a.toNat) : decPlayer a = .error .playerRange :=
  dif_neg (Nat.not_lt.mpr h)

theorem decAxis_of_not_level {d : Half} (h0 : d ≠ 0) (h128 : d ≠ 128) (h255 : d ≠ 255) :
    decAxis d = .error .axisValue := by
  rw [decAxis, if_neg h0, if_neg h128, if_neg h255]

/-- An operand out of its range makes no operation of one player and one axis (R97). -/
theorem decPlayerWith_decAxis_error (f : Player → AxisLevel → Instr) {a : Byte} {d : Half}
    (h : 2 ≤ a.toNat ∨ (d ≠ 0 ∧ d ≠ 128 ∧ d ≠ 255)) : ∃ why, decPlayerWith decAxis f a d = .error why := by
  unfold decPlayerWith
  rcases h with ha | ⟨h0, h128, h255⟩
  · exact ⟨.playerRange, by rw [decPlayer_of_two_le ha]⟩
  · rw [decAxis_of_not_level h0 h128 h255]
    cases decPlayer a with
    | ok p => exact ⟨_, rfl⟩
    | error e => exact ⟨e, rfl⟩

/-! ### Writing what a register holds -/

theorem writeAx_eq_self {p : Player} {v : AxisLevel} {s : State} (h : readAx p s = v.toByte) : writeAx p v s = s := by
  simp [writeAx, ← h, readAx]

theorem writeAy_eq_self {p : Player} {v : AxisLevel} {s : State} (h : readAy p s = v.toByte) : writeAy p v s = s := by
  simp [writeAy, ← h, readAy]

theorem writeBt_eq_self {p : Player} {k : Flag} {v : Bool} {s : State} (h : readBt p k s = v) :
    writeBt p k v s = s := by
  simp [writeBt, ← h, readBt]

/-! ### The record bytes that follow a register -/

/-- The byte of a record that holds flag `k` (R45). -/
def flagIndex (k : Flag) : ByteIndex := if k.val < 8 then 2 else 3

section
variable {s t : State} (hv : t.build.variant = s.build.variant)
include hv

theorem flagByte_congr_of_readBt {p : Player} {n : Nat}
    (hb : ∀ k : Flag, n ≤ k.val → k.val < n + 8 → readBt p k t = readBt p k s) : flagByte p n t = flagByte p n s := by
  refine BitVec.eq_of_getLsbD_eq fun j hj => ?_
  rw [flagByte_getLsbD p n t j hj, flagByte_getLsbD p n s j hj, recordBit, recordBit, hv]
  split
  · rw [hb _ (Nat.le_add_right n j) (Nat.add_lt_add_left hj n)]
  · rfl

/-- Each byte of a record follows its own registers only (R34, R45). -/
theorem recordByte_congr_of_reads {p : Player} {i : ByteIndex} (hx : i = 0 → readAx p t = readAx p s)
    (hy : i = 1 → readAy p t = readAy p s) (hb : ∀ k, i = flagIndex k → readBt p k t = readBt p k s) :
    recordByte p i t = recordByte p i s := by
  match i with
  | 0 => exact hx rfl
  | 1 => exact hy rfl
  | 2 => exact flagByte_congr_of_readBt hv fun k _ hk => hb k (if_pos hk).symm
  | 3 => exact flagByte_congr_of_readBt hv fun k hk _ => hb k (if_neg (Nat.not_lt.mpr hk)).symm

/-- An address reads as before where the registers it shows do. -/
theorem memRead_congr_of_reads {a : Nat} (hx : ∀ p, a = recordAddr p 0 → readAx p t = readAx p s)
    (hy : ∀ p, a = recordAddr p 1 → readAy p t = readAy p s)
    (hb : ∀ p k, a = recordAddr p (flagIndex k) → readBt p k t = readBt p k s) : memRead a t = memRead a s := by
  by_cases ha : a < 8
  · obtain ⟨p, i, rfl⟩ : ∃ p i, a = recordAddr p i :=
      ⟨⟨a / 4, by omega⟩, ⟨a % 4, by omega⟩, (Nat.div_add_mod a 4).symm⟩
    rw [memRead_recordAddr, memRead_recordAddr, recordByte_congr_of_reads hv (fun h => hx p (by rw [h]))
      (fun h => hy p (by rw [h])) fun k h => hb p k (by rw [h])]
  · rw [memRead_none (Nat.not_lt.mp ha), memRead_none (Nat.not_lt.mp ha)]

end

/-! ### One register or the indicator -/

/-- Settles O4: one element of `AX` or `AY` is written, and only byte 0 or byte 1 of the record shows it. -/
theorem setAxisWritesOneRegister : Obligations.SetAxisWritesOneRegister := by
  refine ⟨fun p v s => ⟨encode_axis_toNat 0x30 rfl rfl rfl rfl, writeAx p v s, rfl, ⟨rfl, rfl, rfl⟩, ?_⟩,
    fun p v s => ⟨encode_axis_toNat 0x31 rfl rfl rfl rfl, writeAy p v s, rfl, ⟨rfl, rfl, rfl⟩, ?_⟩,
    fun op a d hop h => ?_⟩
  · have hother (q : Player) (hq : q ≠ p) : readAx q (writeAx p v s) = readAx q s := by
      rw [readAx_writeAx, if_neg hq.symm]
    refine ⟨by rw [readAx_writeAx, if_pos rfl], hother, fun h => by rw [writeAx_eq_self h], fun a ha => ?_⟩
    exact memRead_congr_of_reads (by rfl) (fun q hq => hother q (by rintro rfl; exact ha hq)) (fun _ _ => rfl)
      fun _ _ _ => rfl
  · have hother (q : Player) (hq : q ≠ p) : readAy q (writeAy p v s) = readAy q s := by
      rw [readAy_writeAy, if_neg hq.symm]
    refine ⟨by rw [readAy_writeAy, if_pos rfl], hother, fun h => by rw [writeAy_eq_self h], fun a ha => ?_⟩
    exact memRead_congr_of_reads (by rfl) (fun _ _ => rfl) (fun q hq => hother q (by rintro rfl; exact ha hq))
      fun _ _ _ => rfl
  · rw [decode_assemble]
    rcases hop with rfl | rfl
    · exact decPlayerWith_decAxis_error .setaxX h
    · exact decPlayerWith_decAxis_error .setaxY h

theorem exec_setbt (p : Player) (k : Flag) (v : Bool) (s : State) :
    exec (if v then .setbt1 p k else .setbt0 p k) s = .next (writeBt p k v s) := by
  cases v <;> rfl

/-- Settles O5: one flag is written, and only the byte that holds it shows it. -/
theorem setButtonWritesOneFlag : Obligations.SetButtonWritesOneFlag := by
  refine fun p k s => ⟨encode_flag_toNat 0x32 rfl rfl rfl rfl, encode_flag_toNat 0x33 rfl rfl rfl rfl,
    fun v => ⟨writeBt p k v s, exec_setbt p k v s, ⟨rfl, rfl, rfl⟩, ?_⟩⟩
  have hother (q : Player) (j : Flag) (hne : (q, j) ≠ (p, k)) : readBt q j (writeBt p k v s) = readBt q j s := by
    rw [readBt_writeBt, if_neg]
    rintro ⟨rfl, rfl⟩
    exact hne rfl
  refine ⟨by rw [readBt_writeBt, if_pos ⟨rfl, rfl⟩], hother, fun a ha => ?_⟩
  exact memRead_congr_of_reads (by rfl) (fun _ _ => rfl) (fun _ _ => rfl) fun q j hj => hother q j
    (by rintro ⟨⟩; exact ha hj)

theorem exec_led (v : Bool) (s : State) : exec (if v then .led1 else .led0) s = .next (setLed v s) := by
  cases v <;> rfl

/-- Settles O6: `LED` is no part of the register file, of which the records are a view. -/
theorem ledWritesTheIndicator : Obligations.LedWritesTheIndicator :=
  ⟨rfl, rfl, fun v s => ⟨setLed v s, exec_led v s, ⟨rfl, rfl, rfl⟩, memRead_congr rfl rfl rfl rfl⟩⟩

/-! ### A word, a line -/

/-- The positive direction wins over the negative one (R101, R107). -/
theorem axisFrom_toByte (neg pos : Bool) :
    (axisFrom neg pos).toByte = if pos then 255 else if neg then 0 else 128 := by
  cases pos
  · cases neg <;> rfl
  · rfl

theorem SameButRegs.blockBecomes {s t : State} (h : SameButRegs s t) :
    BlockBecomes s t { s.block with ax := t.block.ax, ay := t.block.ay, bt := t.block.bt } := by
  unfold SameButRegs at h
  exact ⟨congrArg State.block h, by rw [h], by rw [h]⟩

/-- Settles O7: every register of the player is read back, and no other byte shows one of them. -/
theorem mapWordDecodesTheWholeWord : Obligations.MapWordDecodesTheWholeWord := by
  refine fun p w s => ⟨encode_chip_toNat 0x34 rfl rfl rfl, mapWord p w s, rfl,
    (mapWord_sameButRegs p w s).blockBecomes, ?_, ?_, fun k => ?_, fun q hq => mapWord_samePlayer hq w s,
    fun a ha => ?_⟩
  · rw [readAx_mapWord, if_pos rfl]
    exact axisFrom_toByte _ _
  · rw [readAy_mapWord, if_pos rfl]
    exact axisFrom_toByte _ _
  · rw [readBt_mapWord, if_pos rfl, wordFlag]
  · have hother {q : Player} {i : ByteIndex} (hq : a = recordAddr q i) : SamePlayer q s (mapWord p w s) :=
      mapWord_samePlayer (by rintro rfl; exact ha i hq) w s
    exact memRead_congr_of_reads (by rw [(mapWord_quiet p w s).build]) (fun q hq => (hother hq).1)
      (fun q hq => (hother hq).2.1) fun q k hq => (hother hq).2.2 k

/-- Settles O8: by the use of the line. -/
theorem mapLineWritesWhatTheLineNames : Obligations.MapLineWritesWhatTheLineNames := by
  intro l s
  refine ⟨encode_line_toNat 0x38 rfl rfl rfl rfl, encode_line_toNat 0x37 rfl rfl rfl rfl,
    ⟨_, exec_mapLine l false s, ?_⟩, ⟨_, exec_mapLine l true s, ?_⟩⟩
  all_goals
    unfold mapLine
    rcases lineMapAt l s with ⟨p, d⟩ | ⟨p, k⟩ | _
    · cases d <;> rfl
    · rfl
    · rfl

/-! ### Idempotence -/

theorem writeAx_idem (p : Player) (v : AxisLevel) (s : State) : writeAx p v (writeAx p v s) = writeAx p v s :=
  writeAx_eq_self (by rw [readAx_writeAx, if_pos rfl])

theorem writeAy_idem (p : Player) (v : AxisLevel) (s : State) : writeAy p v (writeAy p v s) = writeAy p v s :=
  writeAy_eq_self (by rw [readAy_writeAy, if_pos rfl])

theorem writeBt_idem (p : Player) (k : Flag) (v : Bool) (s : State) :
    writeBt p k v (writeBt p k v s) = writeBt p k v s :=
  writeBt_eq_self (by rw [readBt_writeBt, if_pos ⟨rfl, rfl⟩])

theorem mapWord_idem (p : Player) (w : Half) (s : State) : mapWord p w (mapWord p w s) = mapWord p w s := by
  simp [mapWord_eq]

theorem lineMapAt_writeUse (l : Line) (use : LineUse) (high : Bool) (s : State) :
    lineMapAt l (writeUse use high s) = lineMapAt l s := by
  rcases use with ⟨p, d⟩ | ⟨p, k⟩ | _
  · cases d <;> rfl
  · rfl
  · rfl

/-- The second write finds the register of the line holding what it writes. -/
theorem mapLine_idem (l : Line) (high : Bool) (s : State) : mapLine l high (mapLine l high s) = mapLine l high s := by
  unfold mapLine
  rw [lineMapAt_writeUse]
  exact (holdsUse_writeUse _ high s).writeUse_eq

/-- An operation whose effect is an idempotent update takes the state it answers to itself. -/
theorem exec_again {i : Instr} {s t : State} (f : State → State) (hf : ∀ u, exec i u = .next (f u))
    (hidem : f (f s) = f s) (h : exec i s = .next t) : exec i t = .next t := by
  rw [hf] at h
  cases h
  rw [hf, hidem]

/-- Settles O9: each operation is an update of the state that is idempotent. -/
theorem writesAreIdempotent : Obligations.WritesAreIdempotent := by
  intro i s t hi h
  rcases hi with ⟨p, v, rfl⟩ | ⟨p, v, rfl⟩ | ⟨p, k, rfl⟩ | ⟨p, k, rfl⟩ | ⟨p, w, rfl⟩ | ⟨l, rfl⟩ | ⟨l, rfl⟩ | rfl | rfl
  · exact exec_again (writeAx p v) (fun _ => rfl) (writeAx_idem p v s) h
  · exact exec_again (writeAy p v) (fun _ => rfl) (writeAy_idem p v s) h
  · exact exec_again (writeBt p k false) (fun _ => rfl) (writeBt_idem p k false s) h
  · exact exec_again (writeBt p k true) (fun _ => rfl) (writeBt_idem p k true s) h
  · exact exec_again (mapWord p w) (fun _ => rfl) (mapWord_idem p w s) h
  · exact exec_again (mapLine l false) (exec_mapLine l false) (mapLine_idem l false s) h
  · exact exec_again (mapLine l true) (exec_mapLine l true) (mapLine_idem l true s) h
  · exact exec_again (setLed false) (fun _ => rfl) rfl h
  · exact exec_again (setLed true) (fun _ => rfl) rfl h

end Sys2Proof.Machine

/-! PROOF that nothing of the reader reaches the block (spec/43_read_port.md R114, spec/60_exceptions.md R134): the
operations of the block commute with any change of what the reader and the channel hold, and the report phase of a
tick writes the agent only (O38). -/

namespace Sys2Proof.Machine

/-! ### What belongs to the reader -/

/-- `s` with the reader agent, the channel's readiness, the bytes returned and the waiting words of `r`. -/
def withReaderOf (r s : State) : State :=
  { s with
    env := { s.env with chReady := r.env.chReady }
    agent := r.agent, returned := r.returned, feed := r.feed, script := r.script }

/-- The update neither reads nor writes what belongs to the reader. -/
def ReaderBlind (f : State → State) : Prop := ∀ r s, f (withReaderOf r s) = withReaderOf r (f s)

theorem ReaderBlind.id : ReaderBlind id := fun _ _ => rfl

theorem ReaderBlind.agent {f : State → State} (h : ReaderBlind f) (s : State) : (f s).agent = s.agent := by
  have hself : f s = withReaderOf s (f s) := h s s
  rw [hself]
  rfl

theorem ReaderBlind.comp {f g : State → State} (hg : ReaderBlind g) (hf : ReaderBlind f) :
    ReaderBlind fun s => g (f s) :=
  fun r s => (congrArg g (hf r s)).trans (hg r (f s))

/-- An update that first reads a value the reader has no part in. -/
theorem ReaderBlind.read {α : Type} {v : State → α} {f : α → State → State} (hf : ∀ a, ReaderBlind (f a))
    (hv : ∀ r s, v (withReaderOf r s) = v s := by exact fun _ _ => rfl) : ReaderBlind fun s => f (v s) s :=
  fun r s => (congrArg (fun a => f a (withReaderOf r s)) (hv r s)).trans (hf (v s) r s)

theorem ReaderBlind.ite {c : State → Prop} [DecidablePred c] {f g : State → State} (hf : ReaderBlind f)
    (hg : ReaderBlind g) (hc : ∀ r s, c (withReaderOf r s) ↔ c s := by exact fun _ _ => Iff.rfl) :
    ReaderBlind fun s => if c s then f s else g s := by
  intro r s
  by_cases h : c s
  · simp only [hc, h, if_true]; exact hf r s
  · simp only [hc, h, if_false]; exact hg r s

theorem ReaderBlind.foldl {α : Type} {f : State → α → State} (hf : ∀ a, ReaderBlind fun s => f s a) (xs : List α) :
    ReaderBlind fun s => xs.foldl f s :=
  fun r _ => List.foldl_hom (withReaderOf r) fun t a => hf a r t

/-! ### The GPIO engine -/

theorem afterPopChoice_readerBlind (due : Nat) : ReaderBlind (afterPopChoice due) :=
  .ite (fun _ _ => rfl) .id

theorem writeUse_readerBlind (use : LineUse) (high : Bool) : ReaderBlind (writeUse use high) := by
  intro r s
  rcases use with ⟨p, d⟩ | ⟨p, k⟩ | _
  · cases d <;> rfl
  · rfl
  · rfl

theorem mapLine_readerBlind (l : Line) (high : Bool) : ReaderBlind (mapLine l high) :=
  .read (v := lineMapAt l) fun use => writeUse_readerBlind use high

theorem mapPressed_readerBlind (l : Line) : ReaderBlind (mapPressed l) := by
  rw [funext (mapPressed_eq_mapLine l)]
  exact mapLine_readerBlind l false

theorem mapReleased_readerBlind (l : Line) : ReaderBlind (mapReleased l) := by
  rw [funext (mapReleased_eq_mapLine l)]
  exact mapLine_readerBlind l true

theorem gConfirm_readerBlind (l : Line) (rise : Bool) : ReaderBlind (gConfirm l rise) := by
  rw [funext (gConfirm_eq l rise)]
  exact .ite (.comp (fun _ _ => rfl) (mapLine_readerBlind l rise)) .id

theorem scheduleG_readerBlind (l : Line) (rise : Bool) : ReaderBlind (scheduleG l rise) :=
  .ite (fun _ _ => rfl) (fun _ _ => rfl)

theorem confirmPhaseG_readerBlind (q : List GEntry) : ReaderBlind (confirmPhaseG q) := by
  induction q with
  | nil => exact .id
  | cons e rest ih =>
    have hpop : ReaderBlind fun s => gConfirm e.line e.rise (setPendg rest (afterPopChoice e.due s)) :=
      (gConfirm_readerBlind _ _).comp (.comp (fun _ _ => rfl) (afterPopChoice_readerBlind e.due))
    exact .ite (ih.comp hpop) (afterPopChoice_readerBlind e.due)

theorem detectLine_readerBlind (l : Line) : ReaderBlind fun s => detectLine s l := by
  have hedge (v : Bool) : ReaderBlind fun s => writePinq l v (scheduleG l v s) :=
    .comp (fun _ _ => rfl) (scheduleG_readerBlind l v)
  exact .ite .id (.read (v := pinLevel l) hedge)

theorem tickBodyG_readerBlind : ReaderBlind tickBodyG :=
  .ite (.comp (.foldl detectLine_readerBlind _) (.read (v := fun s => s.block.pendg) confirmPhaseG_readerBlind))
    (fun _ _ => rfl)

/-! ### The expander engine -/

theorem busAfter_readerBlind : ReaderBlind busAfter :=
  .ite (fun _ _ => rfl) (.ite (fun _ _ => rfl) .id)

theorem mapWord_readerBlind (p : Player) (w : Half) : ReaderBlind (mapWord p w) := by
  rw [funext (mapWord_eq p w)]
  exact fun _ _ => rfl

theorem busFail_readerBlind : ReaderBlind fun s => setBuserr (busAfter s) :=
  .comp (fun _ _ => rfl) busAfter_readerBlind

/-- A transaction that fails, or one that does not and what follows it. -/
theorem ReaderBlind.bus {f g : State → State} (hg : ReaderBlind g)
    (hfail : ∀ s, busFailing s = true → f s = setBuserr (busAfter s))
    (hok : ∀ s, busFailing s = false → f s = g s) : ReaderBlind f := by
  have hf : f = fun s => if busFailing s then setBuserr (busAfter s) else g s := by
    funext s
    cases h : busFailing s
    · exact hok s h
    · exact hfail s h
  rw [hf]
  exact .ite busFail_readerBlind hg

theorem xInitialise_readerBlind (c : Chip) : ReaderBlind (xInitialise c) :=
  .bus busAfter_readerBlind (fun _ => xInitialise_of_failing c) (fun _ => xInitialise_of_ok c)

theorem scheduleX_readerBlind (c : Chip) (v : Half) : ReaderBlind (scheduleX c v) :=
  .ite (fun _ _ => rfl) (fun _ _ => rfl)

theorem xInterrupt_readerBlind (c : Chip) : ReaderBlind (xInterrupt c) :=
  .bus (.read (v := portWord c) fun v => (scheduleX_readerBlind c v).comp busAfter_readerBlind)
    (fun _ => xInterrupt_of_failing c) (fun _ => xInterrupt_of_ok c)

theorem xConfirm_readerBlind (c : Chip) (snap : Half) : ReaderBlind (xConfirm c snap) := by
  set w := invertPort snap with hw
  have hmatch : ReaderBlind fun s => setLed (indicatorOf w) (mapWord c w (busAfter s)) :=
    .comp (fun _ _ => rfl) ((mapWord_readerBlind c w).comp busAfter_readerBlind)
  refine .bus (.ite (c := fun s => portWord c s = snap) hmatch busAfter_readerBlind)
    (fun _ => xConfirm_of_failing c snap) fun s hok => ?_
  split
  · exact xConfirm_of_eq hok ‹_›
  · exact xConfirm_of_ne hok ‹_›

theorem confirmPhaseX_readerBlind (q : List XEntry) : ReaderBlind (confirmPhaseX q) := by
  induction q with
  | nil => exact .id
  | cons e rest ih =>
    have hpop : ReaderBlind fun s => xConfirm e.chip e.snap (setPendx rest (afterPopChoice e.due s)) :=
      (xConfirm_readerBlind _ _).comp (.comp (fun _ _ => rfl) (afterPopChoice_readerBlind e.due))
    exact .ite (ih.comp hpop) (afterPopChoice_readerBlind e.due)

theorem serveChip_readerBlind (c : Chip) : ReaderBlind fun s => serveChip s c :=
  .ite ((xInterrupt_readerBlind c).comp fun _ _ => rfl) .id

theorem bootX_readerBlind : ReaderBlind bootX :=
  .comp (g := fun s => arm (writeXirq 1 false (writeXirq 0 false s))) (fun _ _ => rfl)
    ((xInitialise_readerBlind 1).comp (xInitialise_readerBlind 0))

theorem tickBodyX_readerBlind : ReaderBlind tickBodyX :=
  .ite (.comp (.foldl serveChip_readerBlind _) (.read (v := fun s => s.block.pendx) confirmPhaseX_readerBlind))
    bootX_readerBlind

/-! ### The operations -/

/-- The operations that read or write what belongs to the reader: those of the read port, RESET, and the ticks with
their report phase. -/
def TouchesReader : Instr → Prop
  | .adv _ | .reset | .tickG | .tickX | .rdb _ _ | .rdr _ | .rdy0 | .rdy1 | .rtick => True
  | _ => False

theorem execPort_readerBlind (c : Chip) (v : Half) :
    ReaderBlind fun s => writePort c v (if v ≠ portWord c s then writeXirq c true s else s) :=
  .comp (g := writePort c v) (fun _ _ => rfl) (.ite (fun _ _ => rfl) .id)

theorem after_readerBlind {i : Instr} (h : ¬ TouchesReader i) : ReaderBlind (after i) := by
  cases i with
  | adv | reset | tickG | tickX | rdb | rdr | rdy0 | rdy1 | rtick => exact absurd trivial h
  | pinL | pinH | irq | busf | setaxX | setaxY | setbt0 | setbt1 | led0 | led1 => exact fun _ _ => rfl
  | gFall l | gRise l => exact scheduleG_readerBlind l _
  | gConfF l | gConfR l => exact gConfirm_readerBlind l _
  | maplP l => exact mapPressed_readerBlind l
  | maplR l => exact mapReleased_readerBlind l
  | mapw p w => exact mapWord_readerBlind p w
  | port c v => exact execPort_readerBlind c v
  | xIrq c => exact xInterrupt_readerBlind c
  | xConf c snap => exact xConfirm_readerBlind c snap
  | xInit c => exact xInitialise_readerBlind c

/-! ### Two states that agree but for the reader -/

/-- `s'` agrees with `s` on the build, the block, the free values used and the environment but for `ch_ready`. -/
structure AgreeButReader (s s' : State) : Prop where
  build : s'.build = s.build
  block : s'.block = s.block
  choices : s'.choices = s.choices
  env : s'.env = { s.env with chReady := s'.env.chReady }

theorem AgreeButReader.eq_withReaderOf {s s' : State} (h : AgreeButReader s s') : s' = withReaderOf s' s := by
  obtain ⟨hbuild, hblock, hchoices, henv⟩ := h
  rw [withReaderOf, ← hbuild, ← hblock, ← hchoices, ← henv]

theorem ReaderBlind.agree {f : State → State} (hf : ReaderBlind f) {s s' : State} (h : AgreeButReader s s') :
    AgreeButReader (f s) (f s') := by
  rw [h.eq_withReaderOf, hf]
  exact ⟨rfl, rfl, rfl, rfl⟩

theorem report_choices {s : State} (ht : s.build.tornReports = false) : (report s).choices = s.choices := by
  unfold report
  rw [if_neg (by simp [ht])]
  split <;> rfl

section
variable {s s' : State}

theorem AgreeButReader.giveBack (h : AgreeButReader s s') (bs bs' : List Byte) :
    AgreeButReader (giveBack bs s) (giveBack bs' s') :=
  ⟨h.build, h.block, h.choices, h.env⟩

theorem AgreeButReader.writeReady (h : AgreeButReader s s') (v : Bool) :
    AgreeButReader (writeReady v s) (writeReady v s') := by
  refine ⟨h.build, h.block, h.choices, ?_⟩
  rw [writeReady_env, writeReady_env, h.env]

theorem AgreeButReader.report (h : AgreeButReader s s') (ht : s.build.tornReports = false) :
    AgreeButReader (report s) (report s') := by
  obtain ⟨hbuild, hblock, hchoices, henv⟩ := h
  refine ⟨by simp [hbuild], by simp [hblock], ?_, by simpa using henv⟩
  rw [report_choices ht, report_choices (by rw [hbuild, ht]), hchoices]

theorem AgreeButReader.endTick (h : AgreeButReader s s') (ht : s.build.tornReports = false) :
    AgreeButReader (endTick s) (endTick s') := by
  obtain ⟨hbuild, hblock, hchoices, henv⟩ := h
  refine ⟨by simp [hbuild], by simp [hblock], ?_, by simpa using henv⟩
  rw [endTick_choices ht, endTick_choices (by rw [hbuild, ht]), hchoices]

theorem AgreeButReader.tickOf (v : Variant) (h : AgreeButReader s s') (ht : s.build.tornReports = false) :
    AgreeButReader (tickOf v s) (tickOf v s') := by
  cases v
  · exact (tickBodyG_readerBlind.agree h).endTick (by rw [(tickBodyG_sameReader s).build, ht])
  · exact (tickBodyX_readerBlind.agree h).endTick (by rw [(tickBodyX_sameReader s).build, ht])

theorem AgreeButReader.advance (n : Nat) (h : AgreeButReader s s') (ht : s.build.tornReports = false) :
    AgreeButReader (advance n s) (advance n s') := by
  induction n generalizing s s' with
  | zero => exact h
  | succ n ih =>
    rw [advance_succ, advance_succ, tick_eq_tickOf, tick_eq_tickOf, h.build]
    exact ih (h.tickOf _ ht) (by rw [tickOf_build, ht])

theorem AgreeButReader.after (i : Instr) (h : AgreeButReader s s') (ht : s.build.tornReports = false) :
    AgreeButReader (after i s) (after i s') := by
  by_cases hi : TouchesReader i
  · cases i with
    | adv n => exact h.advance n.toNat ht
    | tickG => exact h.tickOf .gpio ht
    | tickX => exact h.tickOf .i2c ht
    | rtick => exact h.report ht
    | reset => exact ⟨h.build, rfl, h.choices, h.env⟩
    | rdb p k =>
      rw [after_of_next (exec_rdb p k s), after_of_next (exec_rdb p k s')]
      exact h.giveBack _ _
    | rdr p => exact h.giveBack _ _
    | rdy0 | rdy1 => exact h.writeReady _
    | _ => exact absurd hi id
  · exact (after_readerBlind hi).agree h

end

/-- Settles O38: an operation that does not touch the reader is blind to it, and one that does keeps the agreement. -/
theorem readerCannotInfluenceTheBlock : Obligations.ReaderCannotInfluenceTheBlock := by
  intro i s s' t ht hbuild hblock hchoices henv h
  have hagree := AgreeButReader.after i ⟨hbuild, hblock, hchoices, henv⟩ ht
  rw [after_of_next h] at hagree
  obtain ⟨hbuild', hblock', hchoices', henv'⟩ := hagree
  exact ⟨after i s', exec_eq_next_after i s', hbuild', hblock', hchoices', henv'⟩

end Sys2Proof.Machine

/-! PROOFS of the statements on the read port, the reader agent and time (spec/43_read_port.md): RESET (O1), the reads
(O33), the channel's readiness (O34), one report (O35), the bytes and sends of a report in either schedule (O36), the
reports of a window of time (O37) and ADV as repeated ticks (O3). -/

namespace Sys2Proof.Machine

/-! ### RESET -/

theorem flagByte_eq_zero {p : Player} {s : State} (h : ∀ k, readBt p k s = false) (n : Nat) : flagByte p n s = 0 := by
  have hbit (m : Nat) : recordBit p m s = false := by simp [recordBit, h]
  simp only [flagByte, hbit]
  rfl

/-- Settles O1: field by field of the table of R29; the records are a view of the register file. -/
theorem resetGivesTheResetTable : Obligations.ResetGivesTheResetTable := by
  refine ⟨rfl, fun s => ⟨resetBlock s, rfl, ?_⟩⟩
  have hax (p : Player) : readAx p (resetBlock s) = 128 := by simp [readAx, Block.reset]
  have hay (p : Player) : readAy p (resetBlock s) = 128 := by simp [readAy, Block.reset]
  have hbt (p : Player) (k : Flag) : readBt p k (resetBlock s) = false := by simp [readBt, Block.reset]
  refine ⟨fun p => ⟨hax p, hay p, hbt p⟩, rfl, rfl, rfl, rfl, fun l => ?_, rfl, rfl, rfl, fun a => ?_, rfl, rfl,
    fun p => ⟨?_, ?_, ?_, ?_⟩⟩
  · simp [pinqLevel, Block.reset]
  · simp [Agent.reset]
  · rw [memRead_recordAddr]; exact congrArg some (hax p)
  · rw [memRead_recordAddr]; exact congrArg some (hay p)
  · rw [memRead_recordAddr]; exact congrArg some (flagByte_eq_zero (hbt p) 0)
  · rw [memRead_recordAddr]; exact congrArg some (flagByte_eq_zero (hbt p) 8)

/-! ### The reads and the channel's readiness -/

/-- A byte index lies in `d` as its number, as a flag does (R58). -/
theorem encode_index_toNat {i : Instr} {p : Player} {k : ByteIndex} (op : Byte) {n : Nat} (hop : i.row.op = op)
    (hn : op.toNat * 2 ^ 24 = n) (ha : i.fieldA = BitVec.ofNat 8 p.val) (hd : i.fieldD = BitVec.ofNat 16 k.val) :
    (encode i).toNat = n + p.val * 0x10000 + k.val :=
  encode_flag_toNat (k := k.castLE (by decide)) op hop hn ha hd

theorem giveBack_sameRecords (bs : List Byte) (s : State) : SameRecords s (giveBack bs s) :=
  memRead_congr rfl rfl rfl rfl

/-- Settles O33: each byte is that of its record address, and only `returned` is written. -/
theorem readsReturnTheRecord : Obligations.ReadsReturnTheRecord := by
  intro p s
  refine ⟨encode_chip_toNat 0x41 rfl rfl rfl, fun i => encode_index_toNat 0x40 rfl rfl rfl rfl, fun i => ?_, ?_⟩
  · exact ⟨_, recordByte p i s, exec_rdb p i s, memRead_recordAddr p i s, rfl, ⟨rfl, rfl, rfl⟩,
      giveBack_sameRecords _ s⟩
  · refine ⟨_, rfl, ?_, ⟨rfl, rfl, rfl⟩, giveBack_sameRecords _ s⟩
    simp only [memRead_recordAddr]
    rfl

theorem exec_rdy (v : Bool) (s : State) : exec (if v then .rdy1 else .rdy0) s = .next (writeReady v s) := by
  cases v <;> rfl

/-- Settles O34: `ch_ready` is no part of the register file, of which the records are a view. -/
theorem readyIsTheChannelsAlone : Obligations.ReadyIsTheChannelsAlone :=
  ⟨rfl, rfl, fun v s => ⟨writeReady v s, exec_rdy v s, ⟨rfl, rfl, rfl⟩, memRead_congr rfl rfl rfl rfl⟩⟩

/-! ### One report -/

theorem memRead_eq_allRecords (a : Fin 8) (s : State) : memRead a s = some (allRecords s)[a] := by
  rw [memRead_lt a.isLt, allRecords_get]

theorem report_sameRecords (s : State) : SameRecords s (report s) :=
  memRead_congr (by simp) (by simp) (by simp) (by simp)

/-- Settles O35: by the channel's readiness. -/
theorem reportSendsTheRecords : Obligations.ReportSendsTheRecords := by
  refine ⟨rfl, fun s ht => ⟨report s, rfl, report_block s, report_env s, report_sameRecords s, fun hc => ?_,
    fun hc => ⟨fun a => ?_, ?_⟩⟩⟩
  · rw [report_agent ht, hc]
    rfl
  · simp only [report_agent ht, hc]
    exact memRead_eq_allRecords a s
  · rw [report_agent ht, hc]
    rfl

/-! ### A report in either schedule -/

theorem allRecords_congr {s t : State} (hv : t.build.variant = s.build.variant) (hb : t.block = s.block) :
    allRecords t = allRecords s := by
  have hbyte (p : Player) (i : ByteIndex) : recordByte p i t = recordByte p i s :=
    recordByte_congr hv (by rw [hb]) (by rw [hb]) (by rw [hb]) p i
  simp only [allRecords, hbyte]

/-- From agent `g` to agent `h` bytes of `recs` were copied into `OUTBUF`, and at most one send was counted. -/
structure Reported (recs : Vector Byte 8) (g h : Agent) : Prop where
  bytes : ∀ a : Fin 8, h.outbuf[a] = g.outbuf[a] ∨ h.outbuf[a] = recs[a]
  sends : g.txcount ≤ h.txcount
  once : h.txcount ≤ g.txcount + 1

theorem Reported.refl (recs : Vector Byte 8) (g : Agent) : Reported recs g g :=
  ⟨fun _ => .inl rfl, Nat.le_refl _, Nat.le_succ _⟩

theorem sendAll_reported (s : State) : Reported (allRecords s) s.agent (sendAll s).agent :=
  ⟨fun _ => .inr rfl, Nat.le_succ _, Nat.le_refl _⟩

theorem copyByte_outbuf (a : Fin 8) (s : State) :
    (copyByte a s).agent.outbuf = s.agent.outbuf.set a (allRecords s)[a] := by
  unfold copyByte
  split <;> rfl

/-- A byte read goes on to the next address, or counts the send and ends the report. -/
theorem copyByte_cases (a : Fin 8) (s : State) :
    (copyByte a s).agent.txcount = s.agent.txcount ∨
      (copyByte a s).agent.txcount = s.agent.txcount + 1 ∧ (copyByte a s).agent.copyNext = none := by
  unfold copyByte
  split
  · exact .inl rfl
  · exact .inr ⟨rfl, rfl⟩

theorem copySome_of_none {s : State} (h : s.agent.copyNext = none) (n : Nat) : copySome n s = s := by
  cases n with
  | zero => rfl
  | succ n => simp [copySome, h]

/-- One byte read, and a report `h` over the same records after it, which is none where the byte was the last. -/
theorem Reported.copyByte {a : Fin 8} {s : State} {h : Agent}
    (hr : Reported (allRecords s) (copyByte a s).agent h)
    (hend : (copyByte a s).agent.copyNext = none → h = (copyByte a s).agent) :
    Reported (allRecords s) s.agent h := by
  obtain ⟨hbytes, hsends, honce⟩ := hr
  refine ⟨fun b => ?_, ?_, ?_⟩
  · rcases hbytes b with hb | hb
    · rw [hb, copyByte_outbuf]
      by_cases hab : a = b
      · subst hab
        exact .inr (by simp)
      · have hne : a.val ≠ b.val := fun e => hab (Fin.ext e)
        exact .inl (by simp [hne])
    · exact .inr hb
  · rcases copyByte_cases a s with e | ⟨e, -⟩ <;> omega
  · rcases copyByte_cases a s with e | ⟨e, hn⟩
    · omega
    · rw [hend hn, e]

theorem copySome_reported (n : Nat) (s : State) : Reported (allRecords s) s.agent (copySome n s).agent := by
  induction n generalizing s with
  | zero => exact .refl _ _
  | succ n ih =>
    unfold copySome
    split
    · exact .refl _ _
    · rename_i a _
      split
      · have hrecs : allRecords (copyByte a (useChoice s)) = allRecords s := allRecords_congr (by simp) (by simp)
        exact Reported.copyByte (s := useChoice s) (hrecs ▸ ih (copyByte a (useChoice s)))
          fun hn => by rw [copySome_of_none hn]
      · exact .refl _ _

/-- Beginning a report copies nothing and counts nothing. -/
theorem startCopy_agent (s : State) : ∃ next, (startCopy s).agent = { s.agent with copyNext := next } := by
  unfold startCopy
  split
  · exact ⟨_, rfl⟩
  · exact ⟨s.agent.copyNext, rfl⟩

theorem startCopy_copySome_reported (n : Nat) (s : State) :
    Reported (allRecords s) s.agent (copySome n (startCopy s)).agent := by
  have hrecs : allRecords (startCopy s) = allRecords s := allRecords_congr (by simp) (by simp)
  obtain ⟨next, e⟩ := startCopy_agent s
  have h := copySome_reported n (startCopy s)
  rw [hrecs, e] at h
  exact ⟨h.bytes, h.sends, h.once⟩

theorem report_reported (s : State) : Reported (allRecords s) s.agent (report s).agent := by
  unfold report
  split
  · split
    · exact startCopy_copySome_reported 8 s
    · exact copySome_reported 8 s
  · split
    · exact sendAll_reported s
    · exact .refl _ _

theorem reportGoesOn_reported (s : State) : Reported (allRecords s) s.agent (reportGoesOn s).agent := by
  unfold reportGoesOn
  split
  · exact copySome_reported 8 s
  · exact .refl _ _

/-- With the channel not ready and no report in progress there is nothing to do (R115). -/
theorem report_idle {s : State} (hc : s.env.chReady = false) (hn : s.agent.copyNext = none) : report s = s := by
  simp [report, hc, copySome_of_none hn]

theorem reportGoesOn_idle {s : State} (hn : s.agent.copyNext = none) : reportGoesOn s = s := by
  simp [reportGoesOn, copySome_of_none hn]

theorem endTick_agent_eq (s : State) :
    (endTick s).agent = if isReportTick s then (report s).agent else (reportGoesOn s).agent := by
  unfold endTick
  split <;> rfl

/-- What a tick does, seen from the reader: its body, which leaves the reader alone, and its end. -/
theorem tickOf_eq_endTick (v : Variant) (s : State) : ∃ u, SameReader s u ∧ tickOf v s = endTick u := by
  cases v
  · exact ⟨_, tickBodyG_sameReader s, rfl⟩
  · exact ⟨_, tickBodyX_sameReader s, rfl⟩

/-- What O36 says of the state `t` that an operation leaves. -/
def ReportsTruly (s t : State) : Prop :=
  (∀ a : Fin 8, t.agent.outbuf[a] = s.agent.outbuf[a] ∨ memRead a t = some t.agent.outbuf[a]) ∧
    s.agent.txcount ≤ t.agent.txcount ∧ t.agent.txcount ≤ s.agent.txcount + 1 ∧
    (s.env.chReady = false → s.agent.copyNext = none → t.agent = s.agent)

/-- The records of the report are those the operation leaves. -/
theorem Reported.reportsTruly {s t : State} (h : Reported (allRecords t) s.agent t.agent)
    (hidle : s.env.chReady = false → s.agent.copyNext = none → t.agent = s.agent) : ReportsTruly s t := by
  refine ⟨fun a => (h.bytes a).imp_right fun e => ?_, h.sends, h.once, hidle⟩
  rw [memRead_eq_allRecords, e]

theorem report_reportsTruly (s : State) : ReportsTruly s (report s) := by
  have hrecs : allRecords (report s) = allRecords s := allRecords_congr (by simp) (by simp)
  exact Reported.reportsTruly (hrecs ▸ report_reported s) fun hc hn => by rw [report_idle hc hn]

theorem allRecords_endTick_eq (s : State) : allRecords (endTick s) = allRecords s :=
  Vector.ext fun a ha => Option.some.inj
    ((memRead_eq_allRecords ⟨a, ha⟩ (endTick s)).symm.trans (allRecords_endTick s ⟨a, ha⟩))

theorem endTick_reportsTruly (s : State) : ReportsTruly s (endTick s) := by
  refine Reported.reportsTruly ?_ fun hc hn => ?_
  · rw [allRecords_endTick_eq, endTick_agent_eq]
    split
    · exact report_reported s
    · exact reportGoesOn_reported s
  · rw [endTick_agent_eq, report_idle hc hn, reportGoesOn_idle hn, ite_self]

theorem tickOf_reportsTruly (v : Variant) (s : State) : ReportsTruly s (tickOf v s) := by
  obtain ⟨u, ⟨hagent, hready, -, -⟩, e⟩ := tickOf_eq_endTick v s
  rw [e, ReportsTruly, ← hagent, ← hready]
  exact endTick_reportsTruly u

/-- Settles O36: RTICK is the report itself; the body of a tick leaves the reader, and its end goes on with it. -/
theorem reportReadsTrueBytes : Obligations.ReportReadsTrueBytes := by
  rintro i s (rfl | rfl | rfl)
  · exact ⟨report s, rfl, fun _ => ⟨report_block s, report_env s, report_sameRecords s⟩, report_reportsTruly s⟩
  · exact ⟨tickGpio s, rfl, nofun, tickOf_reportsTruly .gpio s⟩
  · exact ⟨tickExpander s, rfl, nofun, tickOf_reportsTruly .i2c s⟩

/-! ### Reports and time, reference schedule -/

/-- How many of the ticks before tick `n` are report ticks: the positive multiples of `period` below `n` (R128). -/
def reportTicksBefore (period n : Nat) : Nat := (n - 1) / period

theorem reportTicksBefore_succ (period n : Nat) :
    reportTicksBefore period (n + 1) = reportTicksBefore period n + if 0 < n ∧ n % period = 0 then 1 else 0 := by
  cases n with
  | zero => simp [reportTicksBefore]
  | succ n => simp [reportTicksBefore, Nat.succ_div, Nat.dvd_iff_mod_eq_zero]

theorem reportTicksBefore_mono (period : Nat) {m n : Nat} (h : m ≤ n) :
    reportTicksBefore period m ≤ reportTicksBefore period n :=
  Nat.div_le_div_right (Nat.sub_le_sub_right h 1)

/-- A window of one period holds at most one report tick. -/
theorem reportTicksBefore_add_le (period n : Nat) :
    reportTicksBefore period (n + period) ≤ reportTicksBefore period n + 1 := by
  rcases Nat.eq_zero_or_pos period with rfl | hpos
  · simp [reportTicksBefore]
  · calc (n + period - 1) / period ≤ (n - 1 + period) / period := Nat.div_le_div_right (by omega)
      _ = (n - 1) / period + 1 := Nat.add_div_right _ hpos

/-- And exactly one if it begins after tick 0. -/
theorem reportTicksBefore_add {period n : Nat} (hp : 0 < period) (hn : 0 < n) :
    reportTicksBefore period (n + period) = reportTicksBefore period n + 1 := by
  have h : n + period - 1 = n - 1 + period := by omega
  rw [reportTicksBefore, h, Nat.add_div_right _ hp]
  rfl

theorem tickOf_now (v : Variant) (s : State) : (tickOf v s).block.now = s.block.now + 1 := by
  obtain ⟨u, h, e⟩ := tickOf_eq_endTick v s
  rw [e, endTick_block, h.now]

theorem tickOf_ready (v : Variant) (s : State) : (tickOf v s).env.chReady = s.env.chReady := by
  obtain ⟨u, h, e⟩ := tickOf_eq_endTick v s
  rw [e, endTick_env, h.ready]

section
variable {s t : State} (ht : s.build.tornReports = false)
include ht

theorem tickOf_agent_of_not_ready (v : Variant) (hc : s.env.chReady = false) : (tickOf v s).agent = s.agent := by
  obtain ⟨u, h, e⟩ := tickOf_eq_endTick v s
  rw [e]
  exact (endTick_reports h ht).2.1 hc

theorem tickOf_txcount_of_ready (v : Variant) (hc : s.env.chReady = true) : (tickOf v s).agent.txcount =
    s.agent.txcount + if 0 < s.block.now ∧ s.block.now % s.build.reportTicks = 0 then 1 else 0 := by
  obtain ⟨u, h, e⟩ := tickOf_eq_endTick v s
  obtain ⟨hother, -, hreport⟩ := endTick_reports h ht
  rw [e]
  by_cases hr : 0 < s.block.now ∧ s.block.now % s.build.reportTicks = 0
  · rw [if_pos hr, (hreport hr.1 hr.2 hc).1]
  · rw [if_neg hr, hother hr, Nat.add_zero]

end

/-- From `s` to `t` no more sends were counted than report ticks passed. -/
structure SendsOnReportTicks (s t : State) : Prop where
  build : t.build = s.build
  now : s.block.now ≤ t.block.now
  sends : s.agent.txcount ≤ t.agent.txcount
  bound : t.agent.txcount + reportTicksBefore s.build.reportTicks s.block.now ≤
    s.agent.txcount + reportTicksBefore s.build.reportTicks t.block.now

section
variable {s u w : State}

theorem SendsOnReportTicks.refl (s : State) : SendsOnReportTicks s s :=
  ⟨rfl, Nat.le_refl _, Nat.le_refl _, Nat.le_refl _⟩

theorem SendsOnReportTicks.of_agent (h : SendsOnReportTicks s u) (hb : w.build = u.build)
    (hn : u.block.now ≤ w.block.now) (ha : w.agent = u.agent) : SendsOnReportTicks s w := by
  obtain ⟨hbuild, hnow, hsends, hbound⟩ := h
  refine ⟨hb.trans hbuild, hnow.trans hn, by rw [ha]; exact hsends, ?_⟩
  rw [ha]
  exact hbound.trans (Nat.add_le_add_left (reportTicksBefore_mono _ hn) _)

theorem SendsOnReportTicks.tickOf (h : SendsOnReportTicks s u) (ht : s.build.tornReports = false) (v : Variant) :
    SendsOnReportTicks s (tickOf v u) := by
  have htu : u.build.tornReports = false := by rw [h.build, ht]
  cases hc : u.env.chReady
  · exact h.of_agent (tickOf_build v u) (by rw [tickOf_now]; exact Nat.le_succ _) (tickOf_agent_of_not_ready htu v hc)
  · obtain ⟨hbuild, hnow, hsends, hbound⟩ := h
    have htx := tickOf_txcount_of_ready htu v hc
    rw [hbuild] at htx
    refine ⟨(tickOf_build v u).trans hbuild, ?_, ?_, ?_⟩
    · rw [tickOf_now]
      exact hnow.trans (Nat.le_succ _)
    · rw [htx]
      exact hsends.trans (Nat.le_add_right _ _)
    · rw [htx, tickOf_now, reportTicksBefore_succ]
      omega

theorem after_now_le {i : Instr} (hi : i ≠ .reset) (u : State) : u.block.now ≤ (after i u).block.now :=
  (exec_effect (exec_eq_next_after i u)).preserves (P := fun w => u.block.now ≤ w.block.now)
    (fun hr => absurd hr hi) (fun _ _ h => h) (fun _ _ _ _ he h => he.framed.now ▸ h)
    (fun v _ w h => by rw [tickOf_now]; exact Nat.le_succ_of_le h) (Nat.le_refl _)

theorem after_build (i : Instr) (u : State) : (after i u).build = u.build :=
  (operationsLeaveBuildAndScript i u _ (exec_eq_next_after i u)).1

/-- The ticks, which hold the report phase (R65, R80, R115). -/
def IsTicks (i : Instr) : Prop := (∃ n, i = .adv n) ∨ i = .tickG ∨ i = .tickX

theorem after_agent {i : Instr} (hreset : i ≠ .reset) (hrtick : i ≠ .rtick) (hticks : ¬ IsTicks i) (u : State) :
    (after i u).agent = u.agent := by
  by_cases h : TouchesReader i
  · cases i with
    | rdb p k => rw [after_of_next (exec_rdb p k u)]; rfl
    | rdr | rdy0 | rdy1 => rfl
    | reset => exact absurd rfl hreset
    | rtick => exact absurd rfl hrtick
    | adv n => exact absurd (.inl ⟨n, rfl⟩) hticks
    | tickG => exact absurd (.inr (.inl rfl)) hticks
    | tickX => exact absurd (.inr (.inr rfl)) hticks
    | _ => exact absurd h id
  · exact (after_readerBlind h).agent u

theorem SendsOnReportTicks.after {i : Instr} (hreset : i ≠ .reset) (hrtick : i ≠ .rtick)
    (ht : s.build.tornReports = false) (h : SendsOnReportTicks s u) : SendsOnReportTicks s (after i u) := by
  by_cases hticks : IsTicks i
  · rcases hticks with ⟨n, rfl⟩ | rfl | rfl
    · rw [after_adv, advance_eq_iterate]
      exact Function.Iterate.rec (SendsOnReportTicks s) h (fun _ hw => hw.tickOf ht _) _
    · exact h.tickOf ht .gpio
    · exact h.tickOf ht .i2c
  · exact h.of_agent (after_build i u) (after_now_le hreset u) (after_agent hreset hrtick hticks u)

end

section
variable {s : State} (ht : s.build.tornReports = false)
include ht

theorem advance_agent_of_not_ready (n : Nat) (hc : s.env.chReady = false) : (advance n s).agent = s.agent :=
  (advance_preserves (P := fun u => u.build = s.build ∧ u.env.chReady = false ∧ u.agent = s.agent)
    (fun u ⟨hb, hr, ha⟩ => by
      rw [tick_eq_tickOf]
      exact ⟨(tickOf_build _ u).trans hb, (tickOf_ready _ u).trans hr,
        (tickOf_agent_of_not_ready (by rw [hb, ht]) _ hr).trans ha⟩) n s ⟨rfl, hc, rfl⟩).2.2

/-- With the channel ready every report tick counts one send (R115). -/
theorem advance_txcount_of_ready (n : Nat) (hc : s.env.chReady = true) :
    (advance n s).agent.txcount + reportTicksBefore s.build.reportTicks s.block.now =
      s.agent.txcount + reportTicksBefore s.build.reportTicks (s.block.now + n) := by
  induction n generalizing s with
  | zero => rfl
  | succ n ih =>
    have hb := tickOf_build s.build.variant s
    have hlater := ih (s := tickOf s.build.variant s) (by rw [hb, ht]) (by rw [tickOf_ready, hc])
    rw [hb, tickOf_now, tickOf_txcount_of_ready ht _ hc, reportTicksBefore_succ] at hlater
    rw [advance_succ, tick_eq_tickOf, Nat.add_comm n 1, ← Nat.add_assoc]
    omega

end

/-- Settles O37: sends are counted in report ticks only, of which a window of `REPORT_TICKS` ticks holds at most one;
with the channel ready there is one send for each. -/
theorem atMostOneReportPerWindow : Obligations.AtMostOneReportPerWindow := by
  refine ⟨fun is s ht his => ?_, fun n s t ht h => ?_⟩
  · intro t hwindow
    obtain ⟨-, -, hsends, hbound⟩ : SendsOnReportTicks s t :=
      List.foldlRecOn (motive := SendsOnReportTicks s) is _ (.refl s)
        fun u hu i hi => hu.after (his i hi).1 (his i hi).2 ht
    have hticks := (reportTicksBefore_mono s.build.reportTicks hwindow).trans (reportTicksBefore_add_le _ _)
    exact ⟨hsends, by omega⟩
  · cases h
    refine ⟨advance_agent_of_not_ready ht n.toNat, fun hc hnow hpos hn => ?_⟩
    have hsends := advance_txcount_of_ready ht n.toNat hc
    rw [hn, reportTicksBefore_add (hn ▸ hpos) hnow] at hsends
    rw [hn]
    omega

/-! ### ADV -/

theorem encode_adv_eq_setWidth (n : BitVec 24) : encode (.adv n) = n.setWidth 32 :=
  (encode_adv n).trans (BitVec.setWidth_eq_append (by decide)).symm

/-- Since `s` the levels, the ports and the channel's readiness are as they were, and `busf` has not grown. -/
structure InputsKept (s t : State) : Prop where
  pin : t.env.pin = s.env.pin
  port : t.env.port = s.env.port
  ready : t.env.chReady = s.env.chReady
  busf : t.env.busf ≤ s.env.busf

theorem InputsKept.tickOf {s u : State} (h : InputsKept s u) (v : Variant) : InputsKept s (tickOf v u) := by
  obtain ⟨hpin, hport, hready, hbusf⟩ := h
  cases v
  · have henv : (Machine.tickOf .gpio u).env = u.env := tickGpio_env u
    exact ⟨by rw [henv, hpin], by rw [henv, hport], by rw [henv, hready], by rw [henv]; exact hbusf⟩
  · obtain ⟨t, ht, -, -, -, hport', hpin', hready', hbusf', -, -⟩ := tickXAlwaysCompletes.2 u
    cases ht
    exact ⟨hpin'.trans hpin, hport'.trans hport, hready'.trans hready, hbusf'.trans hbusf⟩

theorem advance_inputsKept (n : Nat) (s : State) : InputsKept s (advance n s) := by
  rw [advance_eq_iterate]
  exact Function.Iterate.rec (InputsKept s) ⟨rfl, rfl, rfl, Nat.le_refl _⟩ (fun _ hu => hu.tickOf _) n

theorem advance_now (n : Nat) (s : State) : (advance n s).block.now = s.block.now + n := by
  induction n generalizing s with
  | zero => rfl
  | succ n ih =>
    rw [advance_succ, ih, tick_eq_tickOf, tickOf_now]
    omega

/-- The last tick serves the events that are left (R80). -/
theorem xirqBit_advance_succ (n : Nat) {s : State} (hv : s.build.variant = .i2c) (c : Chip) :
    xirqBit c (advance (n + 1) s) = false := by
  rw [advance_eq_iterate, hv, Function.iterate_succ_apply']
  exact xirqBit_tickExpander c _

theorem exec_tick (s : State) :
    exec (if s.build.variant = .gpio then .tickG else .tickX) s = .next (tick s) := by
  cases hv : s.build.variant
  · rw [tick_gpio hv]
    rfl
  · rw [tick_i2c hv]
    rfl

/-- Settles O3: ADV is `advance`, which unfolds from its first tick; its last tick leaves no event. -/
theorem advanceIsRepeatedTicks : Obligations.AdvanceIsRepeatedTicks := by
  intro n s hn
  obtain ⟨m, hm⟩ : ∃ m, n.toNat = m + 1 := Nat.exists_eq_succ_of_ne_zero fun h0 => hn (BitVec.eq_of_toNat_eq h0)
  have hpred : (n - 1).toNat = m := by
    have h1 : (1 : BitVec 24).toNat ≤ n.toNat := by
      rw [hm]
      exact Nat.succ_le_succ (Nat.zero_le m)
    rw [BitVec.toNat_sub_of_le h1, hm]
    rfl
  obtain ⟨hpin, hport, hready, hbusf⟩ := advance_inputsKept n.toNat s
  refine ⟨encode_adv_eq_setWidth n, ⟨tick s, exec_tick s, ?_, fun _ => ?_⟩, advance n.toNat s, rfl,
    advance_now n.toNat s, hpin, hport, hready, advance_env n.toNat, fun hv => ⟨fun c => ?_, hbusf⟩⟩
  · rintro rfl
    rfl
  · show Host.Outcome.next (advance n.toNat s) = .next (advance (n - 1).toNat (tick s))
    rw [hpred, hm, advance_succ]
  · rw [hm]
    exact xirqBit_advance_succ m hv c

end Sys2Proof.Machine

/-! PROOFS of the statements on non-normal outcomes (spec/60_exceptions.md): a failed transaction of the expander
engine (O43), and runs that no outcome stops (O49). -/

namespace Sys2Proof.Machine

/-! ### A failed transaction -/

/-- Settles O43: either operation is then the transaction alone, with `BUSERR` set. -/
theorem busFailureIsTheOnlyOutcome : Obligations.BusFailureIsTheOnlyOutcome := by
  intro c i s hi hnone
  have hfail : busFailing s = true := (busRead16_eq_none_iff c s).mp hnone
  obtain ⟨hblock, -⟩ := busFail_blockBecomes s
  refine ⟨setBuserr (busAfter s), ?_, hblock⟩
  rcases hi with rfl | ⟨snap, rfl⟩
  · exact congrArg Host.Outcome.next (xInterrupt_of_failing c hfail)
  · exact congrArg Host.Outcome.next (xConfirm_of_failing c snap hfail)

/-! ### Runs of admitted words -/

/-- Whether a word is admitted depends on the build and the feed alone (R59, R60, R62). -/
theorem admitWord_congr {s t : State} (hb : t.build = s.build) (hf : t.feed = s.feed) (w : EventWord) :
    admitWord t w = admitWord s w := by
  simp [admitWord, objection, hb, hf]

theorem AdmittedScript.of_subset {s t : State} (h : AdmittedScript s) (hb : t.build = s.build)
    (hf : t.feed = s.feed) (hs : t.script ⊆ s.script) : AdmittedScript t := by
  intro w hw
  rw [admitWord_congr hb hf]
  exact h w (hs hw)

/-- With every waiting word admitted, a step is an operation performed on what is left of the script. -/
theorem step_eq_exec_of_admitted {s : State} (hb : s.build.wf = true) (h : AdmittedScript s) :
    ∃ i words, words ⊆ s.script ∧ step s = exec i { s with script := words } := by
  cases hs : s.script with
  | nil =>
    refine ⟨freeTick s, [], List.Subset.refl _, ?_⟩
    rw [step_of_script_nil hb hs, ← hs]
  | cons w rest =>
    obtain ⟨i, hi⟩ := h w (hs ▸ List.mem_cons_self)
    exact ⟨i, rest, List.subset_cons_self w rest, step_of_admitWord_ok hb hs hi⟩

/-- Such a step answers a next state of the same build, whose waiting words are all admitted again. -/
theorem step_keeps_admitted {s : State} (hb : s.build.wf = true) (h : AdmittedScript s) :
    ∃ t, step s = .next t ∧ t.build = s.build ∧ AdmittedScript t := by
  obtain ⟨i, words, hsub, hstep⟩ := step_eq_exec_of_admitted hb h
  have hexec := exec_eq_next_after i { s with script := words }
  obtain ⟨hbuild, hfeed, hscript, -⟩ := operationsLeaveBuildAndScript i _ _ hexec
  refine ⟨_, hstep.trans hexec, hbuild, h.of_subset hbuild hfeed ?_⟩
  rwa [hscript]

theorem safeRun_zero (s : State) : SafeRun 0 s := ⟨s, rfl⟩

theorem safeRun_succ {n : Nat} {s t : State} (h : step s = .next t) (ht : SafeRun n t) : SafeRun (n + 1) s := by
  simpa [SafeRun, Host.Core.run, h] using ht

/-- Settles O49: by induction on the number of steps, the build staying well formed and the words admitted. -/
theorem admittedScriptNeverStops : Obligations.AdmittedScriptNeverStops := by
  intro n
  induction n with
  | zero => exact fun s _ _ => safeRun_zero s
  | succ n ih =>
    intro s hb h
    obtain ⟨t, hstep, hbuild, ht⟩ := step_keeps_admitted hb h
    exact safeRun_succ hstep (ih t (by rwa [hbuild]) ht)

end Sys2Proof.Machine
